-- ==== Sys2Proof/Word.lean ====
section
/-! DEFINITION. The widths of RETS-DGIM (00_scope.md R5, R7, R8; 20_memory.md R84): the words a command carries, the
registers, and the one-bit views. -/

namespace Sys2Proof

/-- A port register, a mask, a callback identifier (CBW = 8, PINS = 8). -/
abbrev Byte := BitVec 8

/-- The hardware counter, a compare value, a debounce timestamp (W = 16). -/
abbrev Half := BitVec 16

/-- A command word, a data word, a round (R = 32). -/
abbrev Word := BitVec 32

/-- Logical time (R + W = 48). -/
abbrev Time := BitVec 48

/-- The value of a response. -/
abbrev Long := BitVec 64

/-- The 4-bit encoded fields CH, PORT, and the status code of a response. -/
abbrev Nibble := BitVec 4

/-- A one-bit register as a bit of a wider word. -/
abbrev bit (b : Bool) : BitVec 1 := BitVec.ofBool b

/-- A field `v` whose lowest bit is bit `lo` of a word of `n` bits; fields are zero-extended (30_encoding.md R103). -/
def place {w : Nat} (n : Nat) (v : BitVec w) (lo : Nat) : BitVec n := v.setWidth n <<< lo

/-- A one-bit field at bit `k` of a word of `n` bits. -/
def placeBit (n : Nat) (b : Bool) (k : Nat) : BitVec n := place n (bit b) k

end Sys2Proof
end

