-- ==== Sys2Proof/Config.lean ====
section
/-! DEFINITION. What an implementation of RETS-DGIM fixes (00_scope.md R5, R6), and the free values of the model: the
order of the agents' turns (R11) and the draws of R9. -/

namespace Sys2Proof

/-- `SERVICE_ORDER` (R5): how the ENGINE picks among requested services (60_exceptions.md R236). -/
inductive ServiceOrder where
  | any
  | fixed
deriving DecidableEq, Repr, Inhabited

/-- `BUS_BYTE_ORDER` (R5, 20_memory.md R82): the byte order of a platform's bus. No rule reads it. -/
inductive ByteOrder where
  | little
  | big
deriving DecidableEq, Repr, Inhabited

/-- The open parameters of R5 that are not counted by the shape of the state. They do not change in a run. -/
structure Settings where
  /-- `D`, the DEBOUNCE_TIMEOUT in ticks. -/
  d : Half
  /-- `SERVICE_ORDER`. -/
  serviceOrder : ServiceOrder
  /-- `SPURIOUS_IFG_ON_WRITE`. -/
  spuriousIfgOnWrite : Bool
  /-- `BUS_BYTE_ORDER`; no rule reads it (20_memory.md R82). -/
  busByteOrder : ByteOrder
  /-- `PLATFORM_BASE`; none: the platform maps the block nowhere. No rule reads it (20_memory.md R88). -/
  platformBase : Option Nat
deriving DecidableEq, Repr

/-- Every open parameter of R5: the argument of `State.resetWith`. -/
structure Params where
  /-- `N`, the number of timer slots and compare channels. -/
  n : Nat
  /-- `PORT_MIN`, the first supported port identifier. -/
  portMin : Nat
  /-- `PORT_MAX`, the last supported port identifier. -/
  portMax : Nat
  /-- The other parameters. -/
  settings : Settings
deriving DecidableEq, Repr

/-- The constraints between the parameters (R5, R6). -/
def Params.valid (p : Params) : Bool :=
  decide (1 ≤ p.n) && decide (p.n ≤ 16) && decide (1 ≤ p.portMin) && decide (p.portMin ≤ p.portMax)
    && decide (p.portMax ≤ 15)

/-- The services of the ENGINE (60_exceptions.md R235). -/
inductive Service where
  | overflow
  | cmp0
  | cmpv
  | port (p : Nat)
deriving DecidableEq, Repr, Inhabited

/-- One turn of one agent (R10, R11): what the world outside the block chooses for the next step. -/
inductive Turn where
  /-- HOST issues the command transaction (CMD, DATA) (30_encoding.md R100). -/
  | host (cmd data : Word)
  /-- TICK (60_exceptions.md R233). -/
  | tick
  /-- ENV sets the external levels of port `p` to `v` (41_gpio.md R181). -/
  | pin (p : Nat) (v : Byte)
  /-- ENGINE performs the service `svc` (60_exceptions.md R235, R236). -/
  | engine (svc : Service)
deriving DecidableEq, Repr, Inhabited

/-- FREE VALUE. The turn taken when the agenda of State is empty: R11 lets any agent that has an enabled step take it,
and gives no order. Indexed by the number of turns taken (log 4). -/
opaque Config.schedule : Nat → Turn

/-- FREE VALUE. `draw(8)` of R9 and 41_gpio.md R171: "any 8-bit value, admitted under every choice". Indexed by the
number of draws made (log 3). -/
opaque Config.spuriousDraw : Nat → Byte

/-- DESIGN CHOICE (log 1, unsafe). The parameters of the one machine `State.reset`: those of 95_test_vectors.md, and
R5's model defaults for SERVICE_ORDER and SPURIOUS_IFG_ON_WRITE. Statements rest on `State.resetWith` or on all
states, so on every value of every parameter. -/
def Config.params : Params :=
  { n := 4, portMin := 1, portMax := 2,
    settings :=
      { d := 100, serviceOrder := .any, spuriousIfgOnWrite := true, busByteOrder := .little, platformBase := none } }

/-- DESIGN CHOICE (log 2, unsafe). The external levels of the one machine `State.reset`; 10_state.md R47 gives a draw,
which `State.resetWith` takes as an argument. -/
def Config.extAtReset (_port : Nat) : Byte := 0

end Sys2Proof
end

