-- ==== Sys2Proof/Syntax.lean ====
section
/-! DEFINITION. The commands of the RETS-DGIM command interface, one constructor for each row of the opcode map
(30_encoding.md R106, opcode_table.json), and the codes their operands name (R109, R110). -/

namespace Sys2Proof

/-- The REG codes of PRD and PWR (30_encoding.md R109). -/
inductive PortReg where
  /-- code 0, IN: Level(p), read-only -/
  | inp
  /-- code 1, OUT -/
  | out
  /-- code 2, DIR -/
  | dir
  /-- code 3, REN -/
  | ren
  /-- code 4, IES -/
  | ies
  /-- code 5, IE -/
  | ie
  /-- code 6, IFG -/
  | ifg
  /-- code 7, IV: the read-clearing port vector, read-only -/
  | iv
deriving DecidableEq, Repr

/-- The SEL codes of DIAG (30_encoding.md R110). -/
inductive DiagSel where
  /-- code 0 -/
  | status
  /-- code 1 -/
  | cbinfo
  /-- code 2, BOUNCE_CNT[PORT] -/
  | bounce
  /-- code 3, SPUR_CNT[PORT] -/
  | spur
  /-- code 4, TSPUR_CNT -/
  | tspur
  /-- code 5, the raw ROUND -/
  | round
deriving DecidableEq, Repr

/-- The commands (30_encoding.md R106), with the fields of their formats (R102, R103). -/
inductive Instr where
  /-- 0x0 NOP, format N (42_control.md R210) -/
  | nop
  /-- 0x1 TINIT, format N (40_timer.md R131) -/
  | tinit
  /-- 0x2 TNOW, format N (40_timer.md R132) -/
  | tnow
  /-- 0x3 TNOWX, format N (40_timer.md R133) -/
  | tnowx
  /-- 0x4 TSET, format T; `targetRound` is DATA (30_encoding.md R104; 40_timer.md R134) -/
  | tset (ch : Nibble) (cb : Byte) (cmp : Half) (targetRound : Word)
  /-- 0x5 TUNSET, format TC (40_timer.md R135) -/
  | tunset (ch : Nibble)
  /-- 0x6 TQUERY, format TC (40_timer.md R136) -/
  | tquery (ch : Nibble)
  /-- 0x7 GINIT, format N (41_gpio.md R174) -/
  | ginit
  /-- 0x8 GSET, format G (41_gpio.md R175) -/
  | gset (port : Nibble) (mask flags cb : Byte)
  /-- 0x9 GQUERY, format GQ (41_gpio.md R176) -/
  | gquery (port : Nibble) (pin : Byte)
  /-- 0xA PRD, format PR (41_gpio.md R177) -/
  | prd (port : Nibble) (reg : PortReg)
  /-- 0xB PWR, format PW (41_gpio.md R178) -/
  | pwr (port : Nibble) (reg : PortReg) (value : Byte)
  /-- 0xC INTCTL, format IC (42_control.md R211) -/
  | intctl (e : Bool)
  /-- 0xD CBDONE, format N (42_control.md R212) -/
  | cbdone
  /-- 0xE DIAG, format DG (42_control.md R213) -/
  | diag (port : Nibble) (sel : DiagSel)
deriving DecidableEq, Repr

end Sys2Proof
end

