-- ==== Sys2Proof/WellFormed.lean ====
section
/-! DEFINITION. Which commands a legal word can name (30_encoding.md R102, R107): the checks that the types of the
operands do not already make. -/

namespace Sys2Proof

/-- FLAGS bits 7:6 (CMD bits 15:14) must be 0 (30_encoding.md R102, R111). -/
def flagsLegal (flags : Byte) : Bool := flags.extractLsb' 6 2 == 0

/-- PWR may not name the read-only codes IN and IV (30_encoding.md R107, R109). -/
def PortReg.writable : PortReg → Bool
  | .inp | .iv => false
  | .out | .dir | .ren | .ies | .ie | .ifg => true

/-- DIAG selects 2 and 3 take a PORT; the others require PORT = 0 (30_encoding.md R107). -/
def DiagSel.takesPort : DiagSel → Bool
  | .bounce | .spur => true
  | .status | .cbinfo | .tspur | .round => false

/-- A command that some legal word names (30_encoding.md R107). -/
def Instr.wellFormed : Instr → Bool
  | .gset _ _ flags _ => flagsLegal flags
  | .pwr _ reg _ => reg.writable
  | .diag port sel => sel.takesPort || port == 0
  | .nop | .tinit | .tnow | .tnowx | .ginit | .cbdone => true
  | .tset _ _ _ _ | .tunset _ | .tquery _ | .gquery _ _ | .prd _ _ | .intctl _ => true

end Sys2Proof
end

