-- ==== Sys2Proof/Decode.lean ====
section
/-! DEFINITION. The decoder of command words (30_encoding.md R100 to R112), total, refusing by name, and the encoder
written from the same formats. -/

namespace Sys2Proof

/-- Why a command word is illegal (30_encoding.md R107). The block answers every one of them with IllegalCommand. -/
inductive DecodeError where
  /-- OP is 0xF -/
  | reservedOpcode
  /-- a bit that the format requires to be zero is one -/
  | nonzeroReserved
  /-- REG is 8 to 15 -/
  | reservedReg
  /-- PWR names IN or IV -/
  | readOnlyReg
  /-- SEL is 6 to 15 -/
  | reservedSel
  /-- DIAG select 0, 1, 4 or 5 with a PORT that is not 0 -/
  | portNotZero
deriving DecidableEq, Repr

/-- A must-be-zero field: answers `i` where it is zero. -/
def requireZero {w : Nat} (reserved : BitVec w) (i : Instr) : Except DecodeError Instr :=
  if reserved = 0 then .ok i else .error .nonzeroReserved

/-- The REG codes (30_encoding.md R109). -/
def portRegOfCode (code : Nibble) : Option PortReg :=
  match code.toNat with
  | 0 => some .inp
  | 1 => some .out
  | 2 => some .dir
  | 3 => some .ren
  | 4 => some .ies
  | 5 => some .ie
  | 6 => some .ifg
  | 7 => some .iv
  | _ => none

/-- The code of a register (30_encoding.md R109). -/
def PortReg.code : PortReg → Nibble
  | .inp => 0
  | .out => 1
  | .dir => 2
  | .ren => 3
  | .ies => 4
  | .ie => 5
  | .ifg => 6
  | .iv => 7

/-- The SEL codes (30_encoding.md R110). -/
def diagSelOfCode (code : Nibble) : Option DiagSel :=
  match code.toNat with
  | 0 => some .status
  | 1 => some .cbinfo
  | 2 => some .bounce
  | 3 => some .spur
  | 4 => some .tspur
  | 5 => some .round
  | _ => none

/-- The code of a select (30_encoding.md R110). -/
def DiagSel.code : DiagSel → Nibble
  | .status => 0
  | .cbinfo => 1
  | .bounce => 2
  | .spur => 3
  | .tspur => 4
  | .round => 5

/-- CMD[31:28] (30_encoding.md R101). -/
def fieldOp (cmd : Word) : Nibble := cmd.extractLsb' 28 4
/-- CMD[27:24], the fields CH and PORT (30_encoding.md R102). -/
def fieldHi (cmd : Word) : Nibble := cmd.extractLsb' 24 4
/-- CMD[23:16], the fields CB of format T, MASK and PIN (30_encoding.md R102). -/
def fieldMid (cmd : Word) : Byte := cmd.extractLsb' 16 8
/-- CMD[23:20], the fields REG and SEL (30_encoding.md R102). -/
def fieldSel (cmd : Word) : Nibble := cmd.extractLsb' 20 4
/-- CMD[15:0], the field CMP (30_encoding.md R102). -/
def fieldCmp (cmd : Word) : Half := cmd.extractLsb' 0 16
/-- CMD[15:8], the field FLAGS (30_encoding.md R102). -/
def fieldFlags (cmd : Word) : Byte := cmd.extractLsb' 8 8
/-- CMD[7:0], the fields VALUE and CB of format G (30_encoding.md R102). -/
def fieldLow (cmd : Word) : Byte := cmd.extractLsb' 0 8

/-- Format G: FLAGS bits 7:6 are reserved (30_encoding.md R102, R111). -/
def decodeGset (cmd : Word) : Except DecodeError Instr :=
  if flagsLegal (fieldFlags cmd) then .ok (.gset (fieldHi cmd) (fieldMid cmd) (fieldFlags cmd) (fieldLow cmd))
  else .error .nonzeroReserved

/-- Format PR (30_encoding.md R102, R107). -/
def decodePrd (cmd : Word) : Except DecodeError Instr :=
  match portRegOfCode (fieldSel cmd) with
  | none => .error .reservedReg
  | some reg => requireZero (cmd.extractLsb' 0 20) (.prd (fieldHi cmd) reg)

/-- Format PW (30_encoding.md R102, R107). -/
def decodePwr (cmd : Word) : Except DecodeError Instr :=
  match portRegOfCode (fieldSel cmd) with
  | none => .error .reservedReg
  | some reg =>
    if reg.writable then requireZero (cmd.extractLsb' 8 12) (.pwr (fieldHi cmd) reg (fieldLow cmd))
    else .error .readOnlyReg

/-- Format DG (30_encoding.md R102, R107). -/
def decodeDiag (cmd : Word) : Except DecodeError Instr :=
  match diagSelOfCode (fieldSel cmd) with
  | none => .error .reservedSel
  | some sel =>
    if sel.takesPort || fieldHi cmd == 0 then requireZero (cmd.extractLsb' 0 20) (.diag (fieldHi cmd) sel)
    else .error .portNotZero

/-- The command a transaction names (30_encoding.md R106, R112); DATA is read by TSET alone (R104). -/
def decode (cmd data : Word) : Except DecodeError Instr :=
  match (fieldOp cmd).toNat with
  | 0x0 => requireZero (cmd.extractLsb' 0 28) .nop
  | 0x1 => requireZero (cmd.extractLsb' 0 28) .tinit
  | 0x2 => requireZero (cmd.extractLsb' 0 28) .tnow
  | 0x3 => requireZero (cmd.extractLsb' 0 28) .tnowx
  | 0x4 => .ok (.tset (fieldHi cmd) (fieldMid cmd) (fieldCmp cmd) data)
  | 0x5 => requireZero (cmd.extractLsb' 0 24) (.tunset (fieldHi cmd))
  | 0x6 => requireZero (cmd.extractLsb' 0 24) (.tquery (fieldHi cmd))
  | 0x7 => requireZero (cmd.extractLsb' 0 28) .ginit
  | 0x8 => decodeGset cmd
  | 0x9 => requireZero (cmd.extractLsb' 0 16) (.gquery (fieldHi cmd) (fieldMid cmd))
  | 0xA => decodePrd cmd
  | 0xB => decodePwr cmd
  | 0xC => requireZero (cmd.extractLsb' 1 27) (.intctl (cmd.getLsbD 0))
  | 0xD => requireZero (cmd.extractLsb' 0 28) .cbdone
  | 0xE => decodeDiag cmd
  | _ => .error .reservedOpcode

/-- CMD[31:28] of a word to be encoded (30_encoding.md R101). -/
def placeOp (op : Nibble) : Word := place 32 op 28

/-- CMD of a command, each field at the place of its format (30_encoding.md R102) and every other bit 0. A command that
is not well formed encodes to the illegal word that spells it (the assembler writes such words, R113). -/
def encodeCmd : Instr → Word
  | .nop => placeOp 0x0
  | .tinit => placeOp 0x1
  | .tnow => placeOp 0x2
  | .tnowx => placeOp 0x3
  | .tset ch cb cmp _ => placeOp 0x4 ||| place 32 ch 24 ||| place 32 cb 16 ||| place 32 cmp 0
  | .tunset ch => placeOp 0x5 ||| place 32 ch 24
  | .tquery ch => placeOp 0x6 ||| place 32 ch 24
  | .ginit => placeOp 0x7
  | .gset port mask flags cb =>
    placeOp 0x8 ||| place 32 port 24 ||| place 32 mask 16 ||| place 32 flags 8 ||| place 32 cb 0
  | .gquery port pin => placeOp 0x9 ||| place 32 port 24 ||| place 32 pin 16
  | .prd port reg => placeOp 0xA ||| place 32 port 24 ||| place 32 reg.code 20
  | .pwr port reg value => placeOp 0xB ||| place 32 port 24 ||| place 32 reg.code 20 ||| place 32 value 0
  | .intctl e => placeOp 0xC ||| placeBit 32 e 0
  | .cbdone => placeOp 0xD
  | .diag port sel => placeOp 0xE ||| place 32 port 24 ||| place 32 sel.code 20

/-- DATA of a command: target_round for TSET, 0 for every other (any value is accepted with those, 30_encoding.md
R100). -/
def encodeData : Instr → Word
  | .tset _ _ _ targetRound => targetRound
  | .nop | .tinit | .tnow | .tnowx | .ginit | .cbdone => 0
  | .tunset _ | .tquery _ | .gset _ _ _ _ | .gquery _ _ | .prd _ _ | .pwr _ _ _ | .intctl _ | .diag _ _ => 0

/-- The transaction (CMD, DATA) of a command (30_encoding.md R100). -/
def encode (i : Instr) : Word × Word := (encodeCmd i, encodeData i)

/-- The first word, CMD, of an instruction whose `nbits` low bits are `w` and whose other bits are 0 (log 9). -/
def tableCmd (nbits w : Nat) : Word := BitVec.ofNat 32 (w % 2 ^ nbits)

/-- The second word, DATA: bits 63..32 of the same number (log 9). -/
def tableData (nbits w : Nat) : Word := BitVec.ofNat 32 (w % 2 ^ nbits / 2 ^ 32)

/-- The command the decoder reads from a row of opcode_table.json; none where the word is illegal. -/
def decodeTableWord (nbits w : Nat) : Option Instr :=
  match decode (tableCmd nbits w) (tableData nbits w) with
  | .ok i => some i
  | .error _ => none

end Sys2Proof
end

