-- ==== Sys2Proof/Machine/State.lean ====
section
/-! DEFINITION. The state of RETS-DGIM (10_state.md), its observation (00_scope.md R12), and the state after reset
(70_reset_and_hazards.md R300, R301). -/

namespace Sys2Proof.Machine

/-- The status codes of a response (30_encoding.md R105). Codes 7 to 15 are reserved and no constructor stands for
them. -/
inductive Status where
  | ok
  | invalidChannel
  | invalidPort
  | invalidPinSelection
  | illegalCommand
  | noCallbackPending
  | notInitialised
deriving DecidableEq, Repr

/-- The number of a status code (30_encoding.md R105). -/
def Status.code : Status → Nibble
  | .ok => 0
  | .invalidChannel => 1
  | .invalidPort => 2
  | .invalidPinSelection => 3
  | .illegalCommand => 4
  | .noCallbackPending => 5
  | .notInitialised => 6

/-- The response (status, value) of a command (30_encoding.md R105). -/
structure Response where
  status : Status
  value : Long
deriving DecidableEq, Repr

/-- What a callback event names as its source (00_scope.md R12). -/
inductive Source where
  /-- `Timer(c)` -/
  | timer (c : Nat)
  /-- `Gpio(p, i)` -/
  | gpio (p : Nat) (i : Fin 8)
deriving DecidableEq, Repr

/-- The events of the trace (00_scope.md R12). -/
inductive Event where
  | cmd (cmd data : Word) (response : Response)
  | tick
  | pin (p : Nat) (v : Byte)
  | callback (cb : Byte) (src : Source)
deriving DecidableEq, Repr

/-- `ENG`, the ENGINE's state (10_state.md R58). -/
inductive Eng where
  | idle
  /-- `WAIT_TIMER(c, cb)` -/
  | waitTimer (c : Nat) (cb : Byte)
  /-- `WAIT_GPIO(p, i, cb)` -/
  | waitGpio (p : Nat) (i : Fin 8) (cb : Byte)
deriving DecidableEq, Repr

/-- One compare channel with its timer slot (10_state.md R36 to R41; 20_memory.md R80). -/
@[ext]
structure Channel where
  /-- `CCR[c]` -/
  ccr : Half
  /-- `CCIE[c]` -/
  ccie : Bool
  /-- `CCIFG[c]` -/
  ccifg : Bool
  /-- `SLOT[c].armed` -/
  armed : Bool
  /-- `SLOT[c].target_round` -/
  targetRound : Word
  /-- `SLOT[c].callback`; 0 names none -/
  callback : Byte
deriving DecidableEq, Repr

/-- One pin's entry of the pin table (10_state.md R51 to R53). -/
@[ext]
structure Pin where
  /-- `CB[p][i]`; 0 names none -/
  cb : Byte
  /-- `DEB[p][i]` -/
  deb : Bool
  /-- `LAST[p][i]` -/
  last : Half
deriving DecidableEq, Repr

/-- One supported port (10_state.md R46 to R55). -/
structure Port where
  /-- `OUT[p]` -/
  out : Byte
  /-- `DIR[p]` -/
  dir : Byte
  /-- `REN[p]` -/
  ren : Byte
  /-- `IES[p]` -/
  ies : Byte
  /-- `IE[p]` -/
  ie : Byte
  /-- `IFG[p]` -/
  ifg : Byte
  /-- `EXT[p]`, the external levels -/
  ext : Byte
  /-- `SAVED_IE[p]` -/
  savedIe : Byte
  /-- the pin table's entries of the port -/
  pins : Vector Pin 8
  /-- `PEND[p]` -/
  pend : Bool
  /-- `BOUNCE_CNT[p]` -/
  bounceCnt : Half
  /-- `SPUR_CNT[p]` -/
  spurCnt : Half
deriving DecidableEq, Repr

/-- A channel right after reset: UNARMED, everything 0 (70_reset_and_hazards.md R301). -/
def Channel.reset : Channel :=
  { ccr := 0, ccie := false, ccifg := false, armed := false, targetRound := 0, callback := 0 }

/-- A pin's entry right after reset (70_reset_and_hazards.md R301). -/
def Pin.reset : Pin := { cb := 0, deb := false, last := 0 }

/-- The pin table of a port right after reset and after GINIT (70_reset_and_hazards.md R301; 41_gpio.md R174). -/
def Pin.table : Vector Pin 8 := Vector.replicate 8 Pin.reset

/-- A port right after reset, with the external levels `ext` (70_reset_and_hazards.md R301). -/
def Port.reset (ext : Byte) : Port :=
  { out := 0, dir := 0, ren := 0, ies := 0, ie := 0, ifg := 0, ext := ext, savedIe := 0, pins := Pin.table,
    pend := false, bounceCnt := 0, spurCnt := 0 }

/-- A step that stops with a fault. There is none: "Nothing in this core is fatal to the process", and the block's two
faults are sticky status bits with which it goes on (60_exceptions.md R231; 00_scope.md R13). Safe: a model without a
stop proves no claim by stopping. -/
inductive Fault where
deriving DecidableEq, Repr

/-- A step that the model refuses. -/
inductive Refusal where
  /-- Raised by `exec` for a command that has no meaning yet; no arm of `exec` uses it, since every command of the
  opcode map has its meaning. Safe: a refused command has no next state to claim anything of. -/
  | notModelled (mnemonic : String)
deriving DecidableEq, Repr

/-- The machine (10_state.md). The parameters N, PORT_MIN and PORT_MAX of 00_scope.md R5 are the shape of the lists:
one entry of `channels` for each channel 0..N-1, one entry of `ports` for each port PORT_MIN..PORT_MAX. -/
@[ext]
structure State where
  /-- `CNT` (R32) -/
  cnt : Half
  /-- `RUN` (R33) -/
  run : Bool
  /-- `ROUND` (R34) -/
  round : Word
  /-- `OVF` (R35) -/
  ovf : Bool
  /-- the timer channel space: channel `c` is entry `c` (R36 to R42) -/
  channels : List Channel
  /-- `CPEND0` (R44) -/
  cpend0 : Bool
  /-- `CPENDV` (R44) -/
  cpendv : Bool
  /-- `TSPUR_CNT` (R45) -/
  tspurCnt : Half
  /-- `PORT_MIN` (00_scope.md R5) -/
  portMin : Nat
  /-- the port register space and the pin table: port `p` is entry `p - PORT_MIN` (R46 to R55) -/
  ports : List Port
  /-- `GINIT_DONE` (R56) -/
  ginitDone : Bool
  /-- `GIE` (R57) -/
  gie : Bool
  /-- `ENG` (R58) -/
  eng : Eng
  /-- `FAULT_UNINIT` (R59), sticky -/
  faultUninit : Bool
  /-- `FAULT_OVF_MISSED` (R59), sticky -/
  faultOvfMissed : Bool
  /-- `FLAG_MULTIBIT` (R60), sticky -/
  flagMultibit : Bool
  /-- the other parameters of 00_scope.md R5 -/
  settings : Settings
  /-- MODEL's field: the response of the last command (30_encoding.md R105; log 6) -/
  response : Response
  /-- the trace of 00_scope.md R12, newest event first (log 7) -/
  trace : List Event
  /-- MODEL's field: the turns placed from outside, next first (00_scope.md R11; log 4) -/
  agenda : List Turn
  /-- MODEL's field: how many turns were taken, the index into `Config.schedule` (log 4) -/
  turns : Nat
  /-- MODEL's field: how many draws were made, the index into `Config.spuriousDraw` (log 3) -/
  draws : Nat
deriving DecidableEq, Repr

/-- The machine right after reset, for any parameters and any draw of the external levels (70_reset_and_hazards.md
R300, R301). -/
def State.resetWith (p : Params) (ext : Nat → Byte) : State :=
  { cnt := 0, run := false, round := 0, ovf := false,
    channels := List.replicate p.n Channel.reset,
    cpend0 := false, cpendv := false, tspurCnt := 0,
    portMin := p.portMin,
    ports := (List.range (p.portMax + 1 - p.portMin)).map (fun k => Port.reset (ext (p.portMin + k))),
    ginitDone := false, gie := false, eng := .idle,
    faultUninit := false, faultOvfMissed := false, flagMultibit := false,
    settings := p.settings,
    response := { status := .ok, value := 0 }, trace := [], agenda := [], turns := 0, draws := 0 }

/-- The machine right after reset, at the parameters and the external levels that log 1 and log 2 name. -/
def State.reset : State := State.resetWith Config.params Config.extAtReset

end Sys2Proof.Machine
end

