-- ==== Sys2Proof/Machine/Operands.lean ====
section
/-! DEFINITION. The operand forms: pins of an 8-bit mask (00_scope.md R8, 41_gpio.md R173, R180), pin numbers, the
FLAGS field decoded once into named fields (41_gpio.md R179). -/

namespace Sys2Proof.Machine

/-- The pins of a port, ascending (00_scope.md R5: PINS = 8). -/
def pinList : List (Fin 8) := [0, 1, 2, 3, 4, 5, 6, 7]

/-- The mask of one pin: bit i selects pin i (00_scope.md R7). -/
def pinMask (i : Fin 8) : Byte := 1#8 <<< i.val

/-- The lowest set pin, none where no bit is set (41_gpio.md R180: "the lowest index with IFG[p][i] = 1"). -/
def lowestPin (b : Byte) : Option (Fin 8) := pinList.find? (fun i => b.getLsbD i.val)

/-- `msb(m)`, the registration pin of a non-zero mask: its highest set bit (00_scope.md R8, 41_gpio.md R173). GSET
reads it of a non-zero mask only. -/
def msb (m : Byte) : Fin 8 := (pinList.reverse.find? (fun i => m.getLsbD i.val)).getD 0

/-- `popcount(m)`, the number of set bits (00_scope.md R8). -/
def popcount (m : Byte) : Nat := pinList.countP (fun i => m.getLsbD i.val)

/-- The PIN field as a pin index; none where it is 8 or more (30_encoding.md R103). -/
def pinOfField (pin : Byte) : Option (Fin 8) :=
  if h : pin.toNat < 8 then some ⟨pin.toNat, h⟩ else none

/-- The edge GSET selects (41_gpio.md R179). -/
inductive Edge where
  | rising
  | falling
deriving DecidableEq, Repr

/-- The pull GSET selects (41_gpio.md R179). -/
inductive Pull where
  | up
  | down
  | none
deriving DecidableEq, Repr

/-- The named fields of FLAGS (41_gpio.md R179). -/
structure GpioFlags where
  disable : Bool
  edge : Edge
  pull : Pull
  debounce : Bool
deriving DecidableEq, Repr

/-- `DecodeFlags(f)` (41_gpio.md R179; bit positions 30_encoding.md R111). -/
def decodeFlags (f : Byte) : GpioFlags :=
  { disable := f.getLsbD 2
    edge := if f.getLsbD 1 then .falling else .rising
    pull := if f.getLsbD 3 then .up else if f.getLsbD 4 then .down else .none
    debounce := f.getLsbD 5 }

end Sys2Proof.Machine
end

