-- ==== Sys2Proof/Machine/Flags.lean ====
section
/-! DEFINITION. The flags of one channel and of one port: compare matches, edges, requests and request latches
(10_state.md R37, R38, R46, R48, R54; 41_gpio.md R170; 60_exceptions.md R232 to R234), and the register writes of GSET
that lead to them (41_gpio.md R175). -/

namespace Sys2Proof.Machine

/-- `Level(p)` (10_state.md R48): an output pin is at its OUT value, an input pin at its EXT value. -/
def Port.level (q : Port) : Byte := (q.dir &&& q.out) ||| (~~~q.dir &&& q.ext)

/-- The pins that went from `l0` to `l1` by the edge that `ies` selects: 1 falling, 0 rising (41_gpio.md R170). -/
def edges (l0 l1 ies : Byte) : Byte := ((~~~l0 &&& l1) &&& ~~~ies) ||| ((l0 &&& ~~~l1) &&& ies)

/-- `DetectEdges(p, L0)`, on the port as it is after the change (41_gpio.md R170). -/
def Port.detectEdges (l0 : Byte) (q : Port) : Port :=
  { q with ifg := q.ifg ||| edges l0 q.level q.ies }

/-- OUT[p] <- v. -/
def Port.putOut (v : Byte) (q : Port) : Port := { q with out := v }

/-- DIR[p] <- v. -/
def Port.putDir (v : Byte) (q : Port) : Port := { q with dir := v }

/-- REN[p] <- v. -/
def Port.putRen (v : Byte) (q : Port) : Port := { q with ren := v }

/-- IES[p] <- v. -/
def Port.putIes (v : Byte) (q : Port) : Port := { q with ies := v }

/-- IFG[p] <- v. -/
def Port.putIfg (v : Byte) (q : Port) : Port := { q with ifg := v }

/-- EXT[p] <- v. -/
def Port.putExt (v : Byte) (q : Port) : Port := { q with ext := v }

/-- A change of a port's registers, with the edges it makes (41_gpio.md R170: `L0` is the level before the change). -/
def Port.change (f : Port → Port) (q : Port) : Port := (f q).detectEdges q.level

/-- The pin configuration of GSET, in the order of the spec: pull-select, direction, pull-enable, edge-select
(41_gpio.md R175, items 1 to 4). -/
def Port.configure (m : Byte) (fl : GpioFlags) (q : Port) : Port :=
  { q with
    out :=
      match fl.pull with
      | .up => q.out ||| m
      | .down => q.out &&& ~~~m
      | .none => q.out
    dir := q.dir &&& ~~~m
    ren :=
      match fl.pull with
      | .none => q.ren &&& ~~~m
      | .up | .down => q.ren ||| m
    ies :=
      match fl.edge with
      | .falling => q.ies ||| m
      | .rising => q.ies &&& ~~~m }

/-- The registration of a callback for one pin (41_gpio.md R175: CB and DEB; LAST is kept). -/
def Port.register (i : Fin 8) (cb : Byte) (deb : Bool) (q : Port) : Port :=
  { q with pins := q.pins.set i.val { q.pins[i] with cb := cb, deb := deb } }

/-- The write of one pin's LAST by the debounce filter (60_exceptions.md R248). -/
def Port.stamp (i : Fin 8) (t : Half) (q : Port) : Port :=
  { q with pins := q.pins.set i.val { q.pins[i] with last := t } }

/-- GINIT on one port: the pin table is cleared, the registers are kept (41_gpio.md R174). -/
def Port.clearPins (q : Port) : Port := { q with pins := Pin.table }

/-- A command's write of IE[p]: to SAVED_IE[p] while a callback of the port is outstanding (41_gpio.md R172). -/
def Port.writeIe (serving : Bool) (v : Byte) (q : Port) : Port :=
  if serving then { q with savedIe := v } else { q with ie := v }

/-- IFG[p][i] <- 0. -/
def Port.clearFlag (i : Fin 8) (q : Port) : Port := { q with ifg := q.ifg &&& ~~~(pinMask i) }

/-- IFG[p] <- IFG[p] OR b (41_gpio.md R171). -/
def Port.orFlags (b : Byte) (q : Port) : Port := { q with ifg := q.ifg ||| b }

/-- The start of a dispatch on the port: the latch is cleared, IE[p] is saved and masked (60_exceptions.md R244). -/
def Port.enter (q : Port) : Port := { q with pend := false, savedIe := q.ie, ie := 0 }

/-- The end of a dispatch on the port: the flags are cleared, IE[p] is restored (60_exceptions.md R250). -/
def Port.finish (q : Port) : Port := { q with ifg := 0, ie := q.savedIe }

/-- `SPUR_CNT[p] <- (SPUR_CNT[p] + 1) mod 2^16` (10_state.md R55). -/
def Port.countSpurious (q : Port) : Port := { q with spurCnt := q.spurCnt + 1 }

/-- `BOUNCE_CNT[p] <- (BOUNCE_CNT[p] + 1) mod 2^16` (10_state.md R55). -/
def Port.countBounce (q : Port) : Port := { q with bounceCnt := q.bounceCnt + 1 }

/-- A command's read of IE[p]: of SAVED_IE[p] while a callback of the port is outstanding (41_gpio.md R172). -/
def Port.readIe (serving : Bool) (q : Port) : Byte := if serving then q.savedIe else q.ie

/-- GSET on its port, from the registration of the callback on (41_gpio.md R175): pin table, pin configuration with its
edges, spurious flags, enables, the clear of the registered pin's flag. `noise` is what Spurious(p) draws. -/
def Port.gset (serving : Bool) (m : Byte) (fl : GpioFlags) (cb noise : Byte) (q : Port) : Port :=
  let q := q.register (msb m) cb fl.debounce
  let q := q.change (Port.configure m fl)
  let q := q.orFlags noise
  let q := q.writeIe serving (q.readIe serving ||| m)
  q.clearFlag (msb m)

/-- The port's request condition: some flagged pin is enabled (60_exceptions.md R234). -/
def Port.request (q : Port) : Bool := q.ifg &&& q.ie != 0

/-- The latch update of one port (60_exceptions.md R234): a latch is only set here. -/
def Port.latch (q : Port) : Port := { q with pend := q.pend || q.request }

/-- The channel's request condition: its match is flagged and enabled (60_exceptions.md R234). -/
def Channel.request (ch : Channel) : Bool := ch.ccifg && ch.ccie

/-- The compare of one channel with the new count (60_exceptions.md R233: whatever CCIE holds). -/
def Channel.compare (n : Half) (ch : Channel) : Channel := { ch with ccifg := ch.ccifg || n == ch.ccr }

/-- CCIFG[c] <- 0. -/
def Channel.clearFlag (ch : Channel) : Channel := { ch with ccifg := false }

/-- `DisarmChannel(c)` on the channel (40_timer.md R130); TINIT writes the same four elements of every channel
(40_timer.md R131). -/
def Channel.disarm (ch : Channel) : Channel :=
  { ch with ccie := false, ccifg := false, callback := 0, armed := false }

/-- The arming of a channel by TSET (40_timer.md R134). -/
def Channel.arm (cmp : Half) (targetRound : Word) (cb : Byte) (_ch : Channel) : Channel :=
  { ccr := cmp, ccifg := false, targetRound := targetRound, callback := cb, armed := true, ccie := true }

/-- `round_delta`: the target round less the raw round, wrapping at 2^32 and read as two's complement
(60_exceptions.md R240, 00_scope.md R8). -/
def roundDelta (targetRound round : Word) : Int := (targetRound - round).toInt

end Sys2Proof.Machine
end

