-- ==== Sys2Proof/Machine/Ops.lean ====
section
/-! DEFINITION. The named operations over the register spaces (20_memory.md R80), the response (30_encoding.md R105),
the procedures of 00_scope.md R9, callback entry and its return (60_exceptions.md R243, R249, R250, R253), the fault
UNINIT (R231) and the views STATUS and CBINFO (10_state.md R61, R62). -/

namespace Sys2Proof.Machine

/-! ## Register spaces -/

/-- `N` (00_scope.md R5). -/
def State.n (s : State) : Nat := s.channels.length

/-- `p` in PORTS, that is PORT_MIN <= p <= PORT_MAX (00_scope.md R5, 30_encoding.md R103). -/
def State.supported (s : State) (p : Nat) : Bool := decide (s.portMin ≤ p) && decide (p < s.portMin + s.ports.length)

/-- Channel `c` (20_memory.md R80). Every caller has c < N; elsewhere the reset channel (log 11). -/
def State.chan (s : State) (c : Nat) : Channel := s.channels.getD c Channel.reset

/-- A write of channel `c`; there is none to write where c >= N (log 11). -/
def State.setChan (s : State) (c : Nat) (ch : Channel) : State := { s with channels := s.channels.set c ch }

/-- A change of channel `c`. -/
def State.modChan (s : State) (c : Nat) (f : Channel → Channel) : State := s.setChan c (f (s.chan c))

/-- Port `p` (20_memory.md R80). Every caller has `p` in PORTS; elsewhere the reset port (log 11). -/
def State.port (s : State) (p : Nat) : Port :=
  if s.supported p then s.ports.getD (p - s.portMin) (Port.reset 0) else Port.reset 0

/-- A write of port `p`; there is none to write where `p` is not in PORTS (log 11). -/
def State.setPort (s : State) (p : Nat) (q : Port) : State :=
  { s with ports := if s.supported p then s.ports.set (p - s.portMin) q else s.ports }

/-- A change of port `p`. -/
def State.modPort (s : State) (p : Nat) (f : Port → Port) : State := s.setPort p (f (s.port p))

/-! ## Response, trace, fault -/

/-- `respond(code, value)` (00_scope.md R9, 30_encoding.md R105). -/
def State.respond (s : State) (st : Status) (v : Long) : State := { s with response := { status := st, value := v } }

/-- The command ends with OK and a value. -/
def State.done (s : State) (v : Long) : Host.Outcome State Fault Refusal := .next (s.respond .ok v)

/-- The command ends with an error status, value 0, and changes nothing else (60_exceptions.md R230). -/
def State.fail (s : State) (st : Status) : Host.Outcome State Fault Refusal := .next (s.respond st 0)

/-- `raise Fault(UNINIT)`: the sticky bit is set and the command ends with NotInitialised (00_scope.md R9,
60_exceptions.md R231). -/
def State.raiseUninit (s : State) : Host.Outcome State Fault Refusal :=
  .next ({ s with faultUninit := true }.respond .notInitialised 0)

/-- `ENG <- eng` (10_state.md R58). -/
def State.setEng (s : State) (eng : Eng) : State := { s with eng := eng }

/-- An event is appended to the trace (00_scope.md R12). -/
def State.log (s : State) (e : Event) : State := { s with trace := e :: s.trace }

/-! ## Timer procedures -/

/-- `DisarmChannel(c)` (40_timer.md R130). -/
def State.disarm (s : State) (c : Nat) : State := s.modChan c Channel.disarm

/-- `TSPUR_CNT <- (TSPUR_CNT + 1) mod 2^16` (10_state.md R45). -/
def State.countTimerSpurious (s : State) : State := { s with tspurCnt := s.tspurCnt + 1 }

/-- The round of the extended time: ROUND + OVF mod 2^32 (40_timer.md R133). -/
def State.effectiveRound (s : State) : Word := s.round + placeBit 32 s.ovf 0

/-- `LT`, logical time (10_state.md R64). -/
def State.logicalTime (s : State) : Time := place 48 s.effectiveRound 16 ||| place 48 s.cnt 0

/-- `TimerVectorRead()`: the value of TIV, and the state with the reported flag cleared (60_exceptions.md R239). -/
def State.timerVectorRead (s : State) : Nat × State :=
  match (List.range s.n).find? (fun c => decide (1 ≤ c) && (s.chan c).request) with
  | none => (0, s)
  | some c => (2 * c, s.modChan c Channel.clearFlag)

/-! ## Port procedures -/

/-- ENG = WAIT_GPIO(p, _, _): a callback of port `p` is outstanding (41_gpio.md R172). -/
def State.serving (s : State) (p : Nat) : Bool :=
  match s.eng with
  | .waitGpio q _ _ => q == p
  | .idle | .waitTimer _ _ => false

/-- `IERead(p)` (41_gpio.md R172). -/
def State.ieRead (s : State) (p : Nat) : Byte := (s.port p).readIe (s.serving p)

/-- `IEWrite(p, v)` (41_gpio.md R172). -/
def State.ieWrite (s : State) (p : Nat) (v : Byte) : State := s.modPort p (Port.writeIe (s.serving p) v)

/-- What `Spurious(p)` ORs into IFG[p]: a draw where SPURIOUS_IFG_ON_WRITE holds, else nothing (41_gpio.md R171;
log 3). -/
def State.spuriousBits (s : State) : Byte :=
  if s.settings.spuriousIfgOnWrite then Config.spuriousDraw s.draws else 0

/-- The draw of `Spurious(p)` is made (00_scope.md R9; log 3). -/
def State.countDraw (s : State) : State :=
  { s with draws := if s.settings.spuriousIfgOnWrite then s.draws + 1 else s.draws }

/-- `Spurious(p)` (41_gpio.md R171). -/
def State.spurious (s : State) (p : Nat) : State := (s.modPort p (Port.orFlags s.spuriousBits)).countDraw

/-- A mask of more than one bit sets the sticky FLAG_MULTIBIT (10_state.md R60). -/
def State.noteMask (s : State) (m : Byte) : State :=
  { s with flagMultibit := s.flagMultibit || decide (1 < popcount m) }

/-- The value of PIV: 0 for none pending, 2 * (i + 1) for the lowest flagged pin (10_state.md R49, 41_gpio.md R180). -/
def vectorValue (ifg : Byte) : Nat :=
  match lowestPin ifg with
  | none => 0
  | some i => 2 * (i.val + 1)

/-- `PortVectorRead(p)`: the value of PIV[p], and the state with the reported flag cleared (41_gpio.md R180). -/
def State.portVectorRead (s : State) (p : Nat) : Nat × State :=
  match lowestPin (s.port p).ifg with
  | none => (vectorValue (s.port p).ifg, s)
  | some i => (vectorValue (s.port p).ifg, s.modPort p (Port.clearFlag i))

/-! ## Callback entry and return -/

/-- A service invokes a callback: the event is emitted and the ENGINE waits for CBDONE (60_exceptions.md R237, R243,
R249). Nothing else is saved and nothing is moved. -/
def State.enterCallback (s : State) (cb : Byte) (src : Source) (eng : Eng) : State :=
  (s.log (.callback cb src)).setEng eng

/-- `TimerInvoke(c, cb)` (60_exceptions.md R243). -/
def State.timerInvoke (s : State) (c : Nat) (cb : Byte) : State :=
  if cb = 0 then s else s.enterCallback cb (.timer c) (.waitTimer c cb)

/-- `DispatchFinish(p)` (60_exceptions.md R250): the return from a port dispatch. -/
def State.dispatchFinish (s : State) (p : Nat) : State :=
  (s.modPort p Port.finish).setEng .idle

/-- `GpioInvoke(p, i)` (60_exceptions.md R249). -/
def State.gpioInvoke (s : State) (p : Nat) (i : Fin 8) : State :=
  if (s.port p).pins[i].cb = 0 then s.dispatchFinish p
  else s.enterCallback (s.port p).pins[i].cb (.gpio p i) (.waitGpio p i (s.port p).pins[i].cb)

/-- `ExpiryCheck(c)` (60_exceptions.md R240): the raw ROUND decides. -/
def State.expiryCheck (s : State) (c : Nat) : State :=
  if (s.chan c).armed = false then s.countTimerSpurious
  else if roundDelta (s.chan c).targetRound s.round ≤ 0 then (s.disarm c).timerInvoke c (s.chan c).callback
  else s.modChan c Channel.clearFlag

/-! ## Latches -/

/-- `UpdateLatches`, at the end of every step (60_exceptions.md R234). -/
def State.updateLatches (s : State) : State :=
  { s with
    cpend0 := s.cpend0 || (s.chan 0).request
    cpendv := s.cpendv || s.channels.tail.any Channel.request
    ports := s.ports.map Port.latch }

/-! ## Views -/

/-- PEND[p] as bit 16 + p of STATUS, 0 for an unsupported `p` (10_state.md R61). -/
def State.pendBit (s : State) (p : Nat) : Word := placeBit 32 (s.supported p && (s.port p).pend) (16 + p)

/-- `STATUS` (10_state.md R61). Bit 16 is 0: there is no port 0. -/
def State.statusWord (s : State) : Word :=
  placeBit 32 s.gie 0 ||| placeBit 32 s.run 1 ||| placeBit 32 s.ginitDone 2 ||| placeBit 32 (s.eng != .idle) 3 |||
  placeBit 32 s.ovf 4 ||| placeBit 32 s.cpend0 5 ||| placeBit 32 s.cpendv 6 ||| placeBit 32 s.faultUninit 8 |||
  placeBit 32 s.faultOvfMissed 9 ||| placeBit 32 s.flagMultibit 10 |||
  s.pendBit 1 ||| s.pendBit 2 ||| s.pendBit 3 ||| s.pendBit 4 ||| s.pendBit 5 ||| s.pendBit 6 ||| s.pendBit 7 |||
  s.pendBit 8 ||| s.pendBit 9 ||| s.pendBit 10 ||| s.pendBit 11 ||| s.pendBit 12 ||| s.pendBit 13 ||| s.pendBit 14 |||
  s.pendBit 15

/-- `CBINFO` of an engine state (10_state.md R62). -/
def Eng.info : Eng → Word
  | .idle => 0
  | .waitTimer c cb => place 32 cb 16 ||| place 32 (BitVec.ofNat 4 c) 4 ||| placeBit 32 true 0
  | .waitGpio p i cb =>
    place 32 cb 16 ||| place 32 (BitVec.ofNat 3 i.val) 8 ||| place 32 (BitVec.ofNat 4 p) 4 ||| placeBit 32 true 1 |||
    placeBit 32 true 0

end Sys2Proof.Machine
end

