-- ==== Sys2Proof/Machine/Control.lean ====
section
/-! DEFINITION. The control and diagnostic commands (42_control.md R210 to R213). -/

namespace Sys2Proof.Machine

/-- NOP (42_control.md R210). -/
def execNop (s : State) : Host.Outcome State Fault Refusal := s.done 0

/-- INTCTL (42_control.md R211). -/
def execIntctl (e : Bool) (s : State) : Host.Outcome State Fault Refusal := { s with gie := e }.done 0

/-- CBDONE (42_control.md R212): the return from a callback (60_exceptions.md R253). -/
def execCbdone (s : State) : Host.Outcome State Fault Refusal :=
  match s.eng with
  | .idle => s.fail .noCallbackPending
  | .waitTimer _ _ => { s with eng := .idle }.done 0
  | .waitGpio p _ _ => (s.dispatchFinish p).done 0

/-- DIAG (42_control.md R213). A PORT with a select that takes none is no legal word (30_encoding.md R107; log 10). -/
def execDiag (port : Nibble) (sel : DiagSel) (s : State) : Host.Outcome State Fault Refusal :=
  if (sel.takesPort || port == 0) = false then s.fail .illegalCommand
  else
    match sel with
    | .status => s.done (s.statusWord.setWidth 64)
    | .cbinfo => s.done (s.eng.info.setWidth 64)
    | .bounce =>
      if s.supported port.toNat = false then s.fail .invalidPort
      else s.done ((s.port port.toNat).bounceCnt.setWidth 64)
    | .spur =>
      if s.supported port.toNat = false then s.fail .invalidPort
      else s.done ((s.port port.toNat).spurCnt.setWidth 64)
    | .tspur => s.done (s.tspurCnt.setWidth 64)
    | .round => s.done (s.round.setWidth 64)

end Sys2Proof.Machine
end

