-- ==== Sys2Proof/Machine/Gpio.lean ====
section
/-! DEFINITION. The GPIO commands (41_gpio.md R174 to R178). -/

namespace Sys2Proof.Machine

/-- GINIT (41_gpio.md R174). -/
def execGinit (s : State) : Host.Outcome State Fault Refusal :=
  { s with ports := s.ports.map Port.clearPins, ginitDone := true }.done 0

/-- GSET's registration and configuration (41_gpio.md R175, from `sel` on): FLAG_MULTIBIT, the port, the draw. -/
def State.gsetConfigure (s : State) (p : Nat) (m : Byte) (fl : GpioFlags) (cb : Byte) : State :=
  ((s.noteMask m).modPort p (Port.gset (s.serving p) m fl cb s.spuriousBits)).countDraw

/-- GSET (41_gpio.md R175); the checks in the order of 60_exceptions.md R254. A FLAGS field with a reserved bit is no
legal word (30_encoding.md R107; log 10). -/
def execGset (port : Nibble) (mask flags cb : Byte) (s : State) : Host.Outcome State Fault Refusal :=
  if flagsLegal flags = false then s.fail .illegalCommand
  else if s.ginitDone = false then s.raiseUninit
  else if s.supported port.toNat = false then s.fail .invalidPort
  else if mask = 0 then s.fail .invalidPinSelection
  else if (decodeFlags flags).disable then
    (s.ieWrite port.toNat (s.ieRead port.toNat &&& ~~~mask)).done 0
  else (s.gsetConfigure port.toNat mask (decodeFlags flags) cb).done 0

/-- The value of GQUERY (41_gpio.md R176). -/
def Pin.query (e : Pin) : Long := place 64 e.last 0 ||| placeBit 64 e.deb 16 ||| place 64 e.cb 24

/-- GQUERY (41_gpio.md R176). -/
def execGquery (port : Nibble) (pin : Byte) (s : State) : Host.Outcome State Fault Refusal :=
  if s.supported port.toNat = false then s.fail .invalidPort
  else
    match pinOfField pin with
    | none => s.fail .invalidPinSelection
    | some i => s.done ((s.port port.toNat).pins[i].query)

/-- The read of a port register (41_gpio.md R177): its value, and the state it leaves (only IV changes it). -/
def State.readPortReg (s : State) (p : Nat) : PortReg → Long × State
  | .inp => ((s.port p).level.setWidth 64, s)
  | .out => ((s.port p).out.setWidth 64, s)
  | .dir => ((s.port p).dir.setWidth 64, s)
  | .ren => ((s.port p).ren.setWidth 64, s)
  | .ies => ((s.port p).ies.setWidth 64, s)
  | .ie => ((s.ieRead p).setWidth 64, s)
  | .ifg => ((s.port p).ifg.setWidth 64, s)
  | .iv => (BitVec.ofNat 64 (s.portVectorRead p).1, (s.portVectorRead p).2)

/-- PRD (41_gpio.md R177). -/
def execPrd (port : Nibble) (reg : PortReg) (s : State) : Host.Outcome State Fault Refusal :=
  if s.supported port.toNat = false then s.fail .invalidPort
  else (s.readPortReg port.toNat reg).2.done (s.readPortReg port.toNat reg).1

/-- The write of a port register (41_gpio.md R178). IN and IV have no write (log 10). -/
def State.writePortReg (s : State) (p : Nat) (v : Byte) : PortReg → State
  | .out => (s.modPort p (Port.change (Port.putOut v))).spurious p
  | .dir => (s.modPort p (Port.change (Port.putDir v))).spurious p
  | .ren => (s.modPort p (Port.putRen v)).spurious p
  | .ies => s.modPort p (Port.putIes v)
  | .ie => s.ieWrite p v
  | .ifg => s.modPort p (Port.putIfg v)
  | .inp | .iv => s

/-- PWR (41_gpio.md R178). IN and IV are no legal operand (30_encoding.md R107; log 10). -/
def execPwr (port : Nibble) (reg : PortReg) (value : Byte) (s : State) : Host.Outcome State Fault Refusal :=
  if reg.writable = false then s.fail .illegalCommand
  else if s.supported port.toNat = false then s.fail .invalidPort
  else (s.writePortReg port.toNat value reg).done 0

end Sys2Proof.Machine
end

