-- ==== Sys2Proof/Machine/Timer.lean ====
section
/-! DEFINITION. The timer commands (40_timer.md R130 to R137). -/

namespace Sys2Proof.Machine

/-- TINIT (40_timer.md R131). -/
def execTinit (s : State) : Host.Outcome State Fault Refusal :=
  { s with run := true, cnt := 0, round := 0, ovf := false, channels := s.channels.map Channel.disarm }.done 0

/-- TNOW (40_timer.md R132). -/
def execTnow (s : State) : Host.Outcome State Fault Refusal := s.done (s.cnt.setWidth 64)

/-- TNOWX (40_timer.md R133). -/
def execTnowx (s : State) : Host.Outcome State Fault Refusal := s.done (s.logicalTime.setWidth 64)

/-- TSET (40_timer.md R134); the checks in the order of 60_exceptions.md R254. -/
def execTset (ch : Nibble) (cb : Byte) (cmp : Half) (targetRound : Word) (s : State) :
    Host.Outcome State Fault Refusal :=
  if s.run = false then s.raiseUninit
  else if s.n ≤ ch.toNat then s.fail .invalidChannel
  else (s.modChan ch.toNat (Channel.arm cmp targetRound cb)).done 0

/-- TUNSET (40_timer.md R135). -/
def execTunset (ch : Nibble) (s : State) : Host.Outcome State Fault Refusal :=
  if s.n ≤ ch.toNat then s.fail .invalidChannel else (s.disarm ch.toNat).done 0

/-- The value of TQUERY (40_timer.md R136). -/
def Channel.query (ch : Channel) : Long :=
  place 64 ch.targetRound 0 ||| place 64 ch.ccr 32 ||| placeBit 64 ch.armed 48 ||| placeBit 64 ch.ccie 49 |||
  placeBit 64 ch.ccifg 50 ||| place 64 ch.callback 56

/-- TQUERY (40_timer.md R136). -/
def execTquery (ch : Nibble) (s : State) : Host.Outcome State Fault Refusal :=
  if s.n ≤ ch.toNat then s.fail .invalidChannel else s.done (s.chan ch.toNat).query

end Sys2Proof.Machine
end

