-- ==== Sys2Proof/Machine/Dispatch.lean ====
section
/-! DEFINITION. One arm for each command of the opcode map (30_encoding.md R106). -/

namespace Sys2Proof.Machine

/-- The meaning of a command: the state it leaves, with its response. -/
def exec (i : Instr) (s : State) : Host.Outcome State Fault Refusal :=
  match i with
  | .nop => Sys2Proof.Machine.execNop s
  | .tinit => Sys2Proof.Machine.execTinit s
  | .tnow => Sys2Proof.Machine.execTnow s
  | .tnowx => Sys2Proof.Machine.execTnowx s
  | .tset ch cb cmp targetRound => Sys2Proof.Machine.execTset ch cb cmp targetRound s
  | .tunset ch => Sys2Proof.Machine.execTunset ch s
  | .tquery ch => Sys2Proof.Machine.execTquery ch s
  | .ginit => Sys2Proof.Machine.execGinit s
  | .gset port mask flags cb => Sys2Proof.Machine.execGset port mask flags cb s
  | .gquery port pin => Sys2Proof.Machine.execGquery port pin s
  | .prd port reg => Sys2Proof.Machine.execPrd port reg s
  | .pwr port reg value => Sys2Proof.Machine.execPwr port reg value s
  | .intctl e => Sys2Proof.Machine.execIntctl e s
  | .cbdone => Sys2Proof.Machine.execCbdone s
  | .diag port sel => Sys2Proof.Machine.execDiag port sel s

end Sys2Proof.Machine
end

