-- ==== Sys2Proof/Machine/Engine.lean ====
section
/-! DEFINITION. The steps of the agents other than HOST: TICK (60_exceptions.md R233), ENV (41_gpio.md R181) and the
ENGINE with its services (60_exceptions.md R235 to R250); the turn that comes next (00_scope.md R11). -/

namespace Sys2Proof.Machine

/-! ## TICK and ENV -/

/-- TICK (60_exceptions.md R233). With RUN = 0 it changes nothing. -/
def State.tick (s : State) : State :=
  if s.run then
    { s with
      cnt := s.cnt + 1
      faultOvfMissed := s.faultOvfMissed || (s.cnt + 1 == 0 && s.ovf)
      ovf := s.ovf || s.cnt + 1 == 0
      channels := s.channels.map (Channel.compare (s.cnt + 1)) }
  else s

/-- `PIN(p, v)` (41_gpio.md R181). -/
def State.pin (s : State) (p : Nat) (v : Byte) : State :=
  s.modPort p (Port.change (Port.putExt v))

/-! ## Services -/

/-- The condition of the overflow service's poll of slot 0 (60_exceptions.md R238), after ROUND is incremented. -/
def State.slot0Due (s : State) : Bool :=
  (s.chan 0).armed && (s.chan 0).targetRound == s.round && decide ((s.chan 0).ccr ≤ s.cnt)

/-- `OverflowService` (60_exceptions.md R238). -/
def State.overflowService (s : State) : State :=
  let s := { s with ovf := false, round := s.round + 1 }
  if s.slot0Due then s.expiryCheck 0 else s

/-- `Cmp0Service` (60_exceptions.md R241). -/
def State.cmp0Service (s : State) : State :=
  let s := { s with cpend0 := false }
  if (s.chan 0).request then (s.modChan 0 Channel.clearFlag).expiryCheck 0
  else s.countTimerSpurious

/-- `CmpVService` (60_exceptions.md R242). -/
def State.cmpvService (s : State) : State :=
  let r := { s with cpendv := false }.timerVectorRead
  if r.1 = 0 then r.2.countTimerSpurious else r.2.expiryCheck (r.1 / 2)

/-- The start of a port dispatch: the latch is cleared, IE[p] is saved and masked (60_exceptions.md R244). -/
def State.dispatchEnter (s : State) (p : Nat) : State :=
  s.modPort p Port.enter

/-- A dispatch that invokes nothing, counted in SPUR_CNT[p] (60_exceptions.md R245, R246). -/
def State.dispatchSpurious (s : State) (p : Nat) : State :=
  (s.modPort p Port.countSpurious).dispatchFinish p

/-- A dispatch that the debounce filter discards, counted in BOUNCE_CNT[p] (60_exceptions.md R248). -/
def State.dispatchBounce (s : State) (p : Nat) : State :=
  (s.modPort p Port.countBounce).dispatchFinish p

/-- The dispatch of the pin that the vector reported (60_exceptions.md R244, from the clear of its flag on; R246,
R247, R248). -/
def State.dispatchPin (s : State) (p : Nat) (i : Fin 8) : State :=
  let s := s.modPort p (Port.clearFlag i)
  let q := s.port p
  if q.savedIe.getLsbD i.val = false then s.dispatchSpurious p
  else if q.pins[i].deb = false then s.gpioInvoke p i
  else if s.settings.d < s.cnt - q.pins[i].last then (s.modPort p (Port.stamp i s.cnt)).gpioInvoke p i
  else s.dispatchBounce p

/-- The pin index of a vector value, v / 2 - 1 (60_exceptions.md R244); none for the sentinel 0. -/
def pinOfVector (v : Nat) : Option (Fin 8) :=
  if h : v ≠ 0 ∧ v / 2 - 1 < 8 then some ⟨v / 2 - 1, h.2⟩ else none

/-- `PortService(p)` (60_exceptions.md R244, R245). -/
def State.portService (s : State) (p : Nat) : State :=
  let r := (s.dispatchEnter p).portVectorRead p
  match pinOfVector r.1 with
  | none => r.2.dispatchSpurious p
  | some i => r.2.dispatchPin p i

/-- The service that the ENGINE performs. -/
def State.serve (s : State) : Service → State
  | .overflow => s.overflowService
  | .cmp0 => s.cmp0Service
  | .cmpv => s.cmpvService
  | .port p => s.portService p

/-! ## Arbitration -/

/-- The requested services in the order of SERVICE_ORDER = FIXED (60_exceptions.md R235, R236). -/
def State.requested (s : State) : List Service :=
  (if s.ovf then [.overflow] else []) ++ (if s.cpend0 then [.cmp0] else []) ++ (if s.cpendv then [.cmpv] else [])
    ++ ((List.range s.ports.length).filter (fun k => (s.port (s.portMin + k)).pend)).map
        (fun k => .port (s.portMin + k))

/-- The ENGINE may perform `svc` now (60_exceptions.md R235, R236). -/
def State.enabled (s : State) (svc : Service) : Bool :=
  s.eng == .idle && s.gie &&
    match s.settings.serviceOrder with
    | .any => s.requested.contains svc
    | .fixed => s.requested.head? == some svc

/-! ## Turns -/

/-- The turn that comes next: the head of the agenda, or a free turn where the agenda is empty (log 4). -/
def State.nextTurn (s : State) : Turn :=
  match s.agenda with
  | t :: _ => t
  | [] => Config.schedule s.turns

/-- The turn is taken. -/
def State.popTurn (s : State) : State := { s with agenda := s.agenda.tail, turns := s.turns + 1 }

/-- TICK's turn: the step, its event, the latch update (60_exceptions.md R233, R234). -/
def State.tickTurn (s : State) : State := (s.tick.log .tick).updateLatches

/-- ENV's turn (41_gpio.md R181, 60_exceptions.md R234). For an unsupported port there is no such step, and the turn
passes (log 5). -/
def State.pinTurn (s : State) (p : Nat) (v : Byte) : State :=
  if s.supported p then ((s.pin p v).log (.pin p v)).updateLatches else s

/-- ENGINE's turn (60_exceptions.md R234 to R236). A service that is not enabled is no step, and the turn passes
(log 5). -/
def State.engineTurn (s : State) (svc : Service) : State :=
  if s.enabled svc then (s.serve svc).updateLatches else s

/-- The end of a command's step: its event with the response, then the latch update (00_scope.md R12,
60_exceptions.md R234). -/
def State.commandEnd (s : State) (cmd data : Word) : State := (s.log (.cmd cmd data s.response)).updateLatches

/-- The response to an illegal word (30_encoding.md R107). -/
def State.illegal (s : State) : State := s.respond .illegalCommand 0

/-- The step of a HOST command, where its meaning gives a next state. -/
def afterCommand (cmd data : Word) : Host.Outcome State Fault Refusal → Host.Outcome State Fault Refusal
  | .next t => .next (t.commandEnd cmd data)
  | .fault r => .fault r
  | .refused r => .refused r

end Sys2Proof.Machine
end

