-- ==== Sys2Proof/Machine/Step.lean ====
section
/-! DEFINITION. One step of RETS-DGIM: one turn of one agent (00_scope.md R10, R11), and how a command comes to be the
next turn. -/

namespace Sys2Proof.Machine

/-- The meaning of a command transaction: of the command it names, or IllegalCommand (30_encoding.md R107, R112). -/
def runCommand (cmd data : Word) (s : State) : Host.Outcome State Fault Refusal :=
  match decode cmd data with
  | .ok i => exec i s
  | .error _ => .next s.illegal

/-- One step (00_scope.md R11). -/
def step (s : State) : Host.Outcome State Fault Refusal :=
  match s.nextTurn with
  | .host cmd data => afterCommand cmd data (runCommand cmd data s.popTurn)
  | .tick => .next s.popTurn.tickTurn
  | .pin p v => .next (s.popTurn.pinTurn p v)
  | .engine svc => .next (s.popTurn.engineTurn svc)

/-- The state whose next turn is HOST's command with the bits `w` of an opcode-table row (30_encoding.md R100; log 4). -/
def State.withFetchWord (s : State) (nbits w : Nat) : State :=
  { s with agenda := .host (tableCmd nbits w) (tableData nbits w) :: s.agenda }

end Sys2Proof.Machine
end

