-- ==== Sys2Proof/Machine/Assembler.lean ====
section
/-! DEFINITION. The assembler: operand ranges and the pseudo-instructions (30_encoding.md R113, R114), and the reading
of one line of text. Conventions that R113 leaves open are log 13. -/

namespace Sys2Proof.Machine

/-- Why the assembler rejects a line (30_encoding.md R113). -/
inductive AsmError where
  /-- an operand does not fit its field -/
  | doesNotFit
  /-- FLAGS bit 6 or 7 is set -/
  | reservedFlags
  /-- the operands are not those of the mnemonic's form -/
  | badForm
  /-- no such mnemonic -/
  | unknownMnemonic
deriving DecidableEq, Repr

/-- One line, its operands read as numbers or names: the forms of R113 and the pseudo-instructions of R114. -/
inductive AsmLine where
  | nop
  | tinit
  | tnow
  | tnowx
  | tset (ch cb cmp round : Nat)
  | tunset (ch : Nat)
  | tquery (ch : Nat)
  | ginit
  | gset (port mask flags cb : Nat)
  | gquery (port pin : Nat)
  | prd (port : Nat) (reg : PortReg)
  | pwr (port : Nat) (reg : PortReg) (value : Nat)
  | intctl (e : Nat)
  | cbdone
  /-- `DIAG sel` -/
  | diag (sel : DiagSel)
  /-- `DIAG sel, port` -/
  | diagPort (sel : DiagSel) (port : Nat)
  /-- `TSETAT ch, cb, T` -/
  | tsetat (ch cb time : Nat)
  /-- `GDISABLE port, mask` -/
  | gdisable (port mask : Nat)
  /-- `GDETACH port, pin, flags` -/
  | gdetach (port pin flags : Nat)
  | ei
  | di
deriving DecidableEq, Repr

/-- An operand as a field of `w` bits, or the rejection of one that does not fit (R113). -/
def fitField (w n : Nat) : Except AsmError (BitVec w) :=
  if n < 2 ^ w then .ok (BitVec.ofNat w n) else .error .doesNotFit

/-- A FLAGS operand: 8 bits with bits 7:6 zero (R113). -/
def fitFlags (n : Nat) : Except AsmError Byte :=
  if n < 2 ^ 8 then if n < 2 ^ 6 then .ok (BitVec.ofNat 8 n) else .error .reservedFlags else .error .doesNotFit

/-- The FLAGS value DISABLE (30_encoding.md R111). -/
def flagDisable : Nat := 4

/-- `TSET ch, cb, cmp, round`. -/
def asmTset (ch cb cmp round : Nat) : Except AsmError Instr := do
  let ch ← fitField 4 ch
  let cb ← fitField 8 cb
  let cmp ← fitField 16 cmp
  let round ← fitField 32 round
  .ok (.tset ch cb cmp round)

/-- `GSET port, mask, flags, cb`. -/
def asmGset (port mask flags cb : Nat) : Except AsmError Instr := do
  let port ← fitField 4 port
  let mask ← fitField 8 mask
  let flags ← fitFlags flags
  let cb ← fitField 8 cb
  .ok (.gset port mask flags cb)

/-- The command a line assembles to (R113, R114). It rejects nothing that fits, so a line may assemble to an illegal
word (`PWR port, IN, value`) or to one the block answers with an error. -/
def AsmLine.assemble : AsmLine → Except AsmError Instr
  | .nop => .ok .nop
  | .tinit => .ok .tinit
  | .tnow => .ok .tnow
  | .tnowx => .ok .tnowx
  | .tset ch cb cmp round => asmTset ch cb cmp round
  | .tunset ch => do
    let ch ← fitField 4 ch
    .ok (.tunset ch)
  | .tquery ch => do
    let ch ← fitField 4 ch
    .ok (.tquery ch)
  | .ginit => .ok .ginit
  | .gset port mask flags cb => asmGset port mask flags cb
  | .gquery port pin => do
    let port ← fitField 4 port
    let pin ← fitField 8 pin
    .ok (.gquery port pin)
  | .prd port reg => do
    let port ← fitField 4 port
    .ok (.prd port reg)
  | .pwr port reg value => do
    let port ← fitField 4 port
    let value ← fitField 8 value
    .ok (.pwr port reg value)
  | .intctl e => do
    let e ← fitField 1 e
    .ok (.intctl (e == 1))
  | .cbdone => .ok .cbdone
  | .diag sel => if sel.takesPort then .error .badForm else .ok (.diag 0 sel)
  | .diagPort sel port => do
    let port ← fitField 4 port
    if sel.takesPort then .ok (.diag port sel) else .error .badForm
  | .tsetat ch cb time =>
    if time < 2 ^ 48 then asmTset ch cb (time % 0x10000) (time / 0x10000 % 0x100000000) else .error .doesNotFit
  | .gdisable port mask => asmGset port mask flagDisable 0
  | .gdetach port pin flags => asmGset port (2 ^ pin) flags 0
  | .ei => .ok (.intctl true)
  | .di => .ok (.intctl false)

/-- The transaction (CMD, DATA) of a line (30_encoding.md R100, R113). -/
def AsmLine.words (line : AsmLine) : Except AsmError (Word × Word) := line.assemble.map encode

/-! ## Text -/

/-- Blanks between tokens. -/
def isBlank (c : Char) : Bool := c == ' ' || c == '\t'

/-- The text without the blanks at both ends. -/
def trim (l : List Char) : List Char := ((l.dropWhile isBlank).reverse.dropWhile isBlank).reverse

/-- The pieces of the text between separators. -/
def splitAt (sep : Char) : List Char → List (List Char)
  | [] => [[]]
  | c :: l =>
    match splitAt sep l with
    | [] => [[]]
    | piece :: pieces => if c = sep then [] :: piece :: pieces else (c :: piece) :: pieces

/-- A digit's value in any base up to 16. -/
def digitValue (c : Char) : Option Nat :=
  if '0' ≤ c ∧ c ≤ '9' then some (c.toNat - '0'.toNat)
  else if 'a' ≤ c ∧ c ≤ 'f' then some (c.toNat - 'a'.toNat + 10)
  else if 'A' ≤ c ∧ c ≤ 'F' then some (c.toNat - 'A'.toNat + 10)
  else none

/-- The digits of a number in base `base`, most significant first. -/
def readDigits (base : Nat) : Nat → List Char → Option Nat
  | acc, [] => some acc
  | acc, c :: l =>
    match digitValue c with
    | none => none
    | some d => if d < base then readDigits base (acc * base + d) l else none

/-- A number: decimal, `0x` hexadecimal or `0b` binary (R113). -/
def readNumber : List Char → Option Nat
  | [] => none
  | ['0', 'x'] | ['0', 'b'] => none
  | '0' :: 'x' :: l => readDigits 16 0 l
  | '0' :: 'b' :: l => readDigits 2 0 l
  | l => readDigits 10 0 l

/-- The register names of R113, in the order of their codes. -/
def regNames : List (List Char × PortReg) :=
  [(['I', 'N'], .inp), (['O', 'U', 'T'], .out), (['D', 'I', 'R'], .dir), (['R', 'E', 'N'], .ren),
   (['I', 'E', 'S'], .ies), (['I', 'E'], .ie), (['I', 'F', 'G'], .ifg), (['I', 'V'], .iv)]

/-- A `reg` operand: a name, or 0..7 (R113). -/
def readReg (l : List Char) : Option PortReg :=
  match regNames.lookup l with
  | some r => some r
  | none => (readNumber l).bind (fun n => if n < 8 then portRegOfCode (BitVec.ofNat 4 n) else none)

/-- The select names of R113. -/
def selNames : List (List Char × DiagSel) :=
  [(['S', 'T', 'A', 'T', 'U', 'S'], .status), (['C', 'B', 'I', 'N', 'F', 'O'], .cbinfo),
   (['B', 'O', 'U', 'N', 'C', 'E'], .bounce), (['S', 'P', 'U', 'R'], .spur), (['T', 'S', 'P', 'U', 'R'], .tspur),
   (['R', 'O', 'U', 'N', 'D'], .round)]

/-- The flag names of R113, with their bits (R111). -/
def flagNames : List (List Char × Nat) :=
  [(['R', 'I', 'S', 'I', 'N', 'G'], 1), (['F', 'A', 'L', 'L', 'I', 'N', 'G'], 2),
   (['D', 'I', 'S', 'A', 'B', 'L', 'E'], 4), (['P', 'U', 'L', 'L', 'U', 'P'], 8),
   (['P', 'U', 'L', 'L', 'D', 'O', 'W', 'N'], 16), (['D', 'E', 'B', 'O', 'U', 'N', 'C', 'E'], 32)]

/-- A `flags` operand: names joined by '|', or a number (R113). -/
def readFlags (l : List Char) : Option Nat :=
  match readNumber l with
  | some n => some n
  | none =>
    (splitAt '|' l).foldr
      (fun piece acc => acc.bind (fun a => (flagNames.lookup (trim piece)).map (fun b => a ||| b))) (some 0)

/-- The mnemonics of R113 and R114. -/
inductive Mnemonic where
  | nop | tinit | tnow | tnowx | tset | tunset | tquery | ginit | gset | gquery | prd | pwr | intctl | cbdone | diag
  | tsetat | gdisable | gdetach | ei | di
deriving DecidableEq, Repr

/-- The spelling of the mnemonics. -/
def mnemonicNames : List (List Char × Mnemonic) :=
  [(['N', 'O', 'P'], .nop), (['T', 'I', 'N', 'I', 'T'], .tinit), (['T', 'N', 'O', 'W'], .tnow),
   (['T', 'N', 'O', 'W', 'X'], .tnowx), (['T', 'S', 'E', 'T'], .tset), (['T', 'U', 'N', 'S', 'E', 'T'], .tunset),
   (['T', 'Q', 'U', 'E', 'R', 'Y'], .tquery), (['G', 'I', 'N', 'I', 'T'], .ginit), (['G', 'S', 'E', 'T'], .gset),
   (['G', 'Q', 'U', 'E', 'R', 'Y'], .gquery), (['P', 'R', 'D'], .prd), (['P', 'W', 'R'], .pwr),
   (['I', 'N', 'T', 'C', 'T', 'L'], .intctl), (['C', 'B', 'D', 'O', 'N', 'E'], .cbdone),
   (['D', 'I', 'A', 'G'], .diag), (['T', 'S', 'E', 'T', 'A', 'T'], .tsetat),
   (['G', 'D', 'I', 'S', 'A', 'B', 'L', 'E'], .gdisable), (['G', 'D', 'E', 'T', 'A', 'C', 'H'], .gdetach),
   (['E', 'I'], .ei), (['D', 'I'], .di)]

/-- The line that a mnemonic and its operands make (R113, R114); none where they are not of its form. -/
def readForm : Mnemonic → List (List Char) → Option AsmLine
  | .nop, [] => some .nop
  | .tinit, [] => some .tinit
  | .tnow, [] => some .tnow
  | .tnowx, [] => some .tnowx
  | .ginit, [] => some .ginit
  | .cbdone, [] => some .cbdone
  | .ei, [] => some .ei
  | .di, [] => some .di
  | .tset, [a, b, c, d] => do some (.tset (← readNumber a) (← readNumber b) (← readNumber c) (← readNumber d))
  | .tunset, [a] => do some (.tunset (← readNumber a))
  | .tquery, [a] => do some (.tquery (← readNumber a))
  | .gset, [a, b, c, d] => do some (.gset (← readNumber a) (← readNumber b) (← readFlags c) (← readNumber d))
  | .gquery, [a, b] => do some (.gquery (← readNumber a) (← readNumber b))
  | .prd, [a, b] => do some (.prd (← readNumber a) (← readReg b))
  | .pwr, [a, b, c] => do some (.pwr (← readNumber a) (← readReg b) (← readNumber c))
  | .intctl, [a] => do some (.intctl (← readNumber a))
  | .diag, [a] => do some (.diag (← selNames.lookup a))
  | .diag, [a, b] => do some (.diagPort (← selNames.lookup a) (← readNumber b))
  | .tsetat, [a, b, c] => do some (.tsetat (← readNumber a) (← readNumber b) (← readNumber c))
  | .gdisable, [a, b] => do some (.gdisable (← readNumber a) (← readNumber b))
  | .gdetach, [a, b, c] => do some (.gdetach (← readNumber a) (← readNumber b) (← readFlags c))
  | _, _ => none

/-- One line of text (R113): a mnemonic, then operands separated by commas; a ';' starts a comment. -/
def readLine (text : List Char) : Except AsmError AsmLine :=
  let line := trim (text.takeWhile (fun c => c != ';'))
  let operands := trim (line.dropWhile (fun c => !isBlank c))
  match mnemonicNames.lookup (line.takeWhile (fun c => !isBlank c)) with
  | none => .error .unknownMnemonic
  | some m =>
    match readForm m (if operands = [] then [] else (splitAt ',' operands).map trim) with
    | none => .error .badForm
    | some l => .ok l

/-- The transaction that one line of text assembles to (R113, R114). -/
def assembleText (text : List Char) : Except AsmError (Word × Word) := (readLine text).bind AsmLine.words

end Sys2Proof.Machine
end

