-- ==== Sys2Proof/Safety.lean ====
section
/-! DEFINITION. What the statements say of a run: the parameters' constraints (00_scope.md R6), the invariant of the
machine, a run without faults (10_state.md R59), and the states that some run reaches. -/

namespace Sys2Proof.Machine

/-- The constraints of 00_scope.md R5 and R6 on N, PORT_MIN and PORT_MAX. -/
structure State.Shape (s : State) : Prop where
  n_pos : 1 ≤ s.channels.length
  n_le : s.channels.length ≤ 16
  portMin_pos : 1 ≤ s.portMin
  ports_pos : 1 ≤ s.ports.length
  portMax_le : s.portMin + s.ports.length ≤ 16

/-- CCIE[c] = 1 exactly when SLOT[c].armed = 1 (60_exceptions.md R240), and an UNARMED slot holds no callback
(40_timer.md R130). -/
structure Channel.Inv (ch : Channel) : Prop where
  enabled_iff_armed : ch.ccie = ch.armed
  unarmed_callback : ch.armed = false → ch.callback = 0

/-- ENG names a channel or a port that exists and a non-zero callback (10_state.md R58); while a callback of port `p` is
outstanding, the live IE[p] is 0 (41_gpio.md R172). -/
def State.EngInv (s : State) : Prop :=
  match s.eng with
  | .idle => True
  | .waitTimer c cb => c < s.channels.length ∧ cb ≠ 0
  | .waitGpio p _ cb => s.supported p = true ∧ cb ≠ 0 ∧ (s.port p).ie = 0

/-- Before TINIT the timer unit holds its reset values (70_reset_and_hazards.md R303). -/
structure State.BeforeTinit (s : State) : Prop where
  cnt : s.cnt = 0
  round : s.round = 0
  ovf : s.ovf = false
  missed : s.faultOvfMissed = false
  channels : ∀ ch ∈ s.channels, ch = Channel.reset

/-- Before GINIT the pin table holds its reset values (70_reset_and_hazards.md R303). -/
structure State.BeforeGinit (s : State) : Prop where
  multibit : s.flagMultibit = false
  pins : ∀ q ∈ s.ports, q.pins = Pin.table

/-- Every request is latched (60_exceptions.md R234). -/
structure State.Latched (s : State) : Prop where
  cpend0 : (s.chan 0).request = true → s.cpend0 = true
  cpendv : s.channels.tail.any Channel.request = true → s.cpendv = true
  pend : ∀ q ∈ s.ports, q.request = true → q.pend = true

/-- The invariant of the machine: it holds right after reset and every step keeps it. -/
structure State.Inv (s : State) : Prop where
  shape : s.Shape
  slots : ∀ ch ∈ s.channels, ch.Inv
  eng : s.EngInv
  beforeTinit : s.run = false → s.BeforeTinit
  beforeGinit : s.ginitDone = false → s.BeforeGinit
  latched : s.Latched

/-- No fault bit is set: the premise that 10_state.md R59 asks of a claim about a run (log 14). -/
structure State.Clean (s : State) : Prop where
  uninit : s.faultUninit = false
  missed : s.faultOvfMissed = false

/-- The states that a run reaches from reset, for some parameters and some draw of the external levels, whatever turns
are placed from outside between two steps (00_scope.md R11). -/
inductive State.Reachable (p : Params) (ext : Nat → Byte) : State → Prop where
  | reset : Reachable p ext (State.resetWith p ext)
  | placed {s : State} (agenda : List Turn) : Reachable p ext s → Reachable p ext { s with agenda := agenda }
  | stepped {s t : State} : Reachable p ext s → step s = .next t → Reachable p ext t

end Sys2Proof.Machine
end

