-- ==== Sys2Proof/Certificates/Slice0/Obligations.lean ====
section
/-! DEFINITION. The statements about RETS-DGIM, from the numbered rules of spec/. The words they share stand first, in
Sys2Proof.Claims; they restate the spec's own formulas and call the model only to read a channel or a port. A statement about every state is
also about the states with a fault bit set, where the model goes on by the same rules (log 14). The response of a command
stands in State.response (log 6), an event at the head of State.trace (log 7), and the next turn at the head of
State.agenda (log 4); a draw is numbered by State.draws (log 3). -/

open Sys2Proof Sys2Proof.Machine

namespace Sys2Proof.Claims

/-- The response OK with a value. -/
def ok (v : Long) : Response := { status := .ok, value := v }

/-- The response of an error: value 0 (30_encoding.md R105). -/
def error (st : Status) : Response := { status := st, value := 0 }

/-- The level of pin `i` (10_state.md R48). -/
def pinLevel (q : Port) (i : Nat) : Bool := if q.dir.getLsbD i then q.out.getLsbD i else q.ext.getLsbD i

/-- The edge that `falling` selects (41_gpio.md R170). -/
def edgeSeen (before after falling : Bool) : Bool :=
  if falling then before && !after else !before && after

/-- The bits that `Spurious(p)` ORs into IFG[p] (41_gpio.md R171): a free draw, numbered by State.draws (log 3), or
none. -/
def spuriousBits (s : State) : Byte := if s.settings.spuriousIfgOnWrite then Config.spuriousDraw s.draws else 0

/-- The count of draws after a command with one `Spurious(p)`: the model's own count (log 3). -/
def drawsAfter (s : State) : Nat := if s.settings.spuriousIfgOnWrite then s.draws + 1 else s.draws

/-- `i` is the lowest set bit of `b` (41_gpio.md R180). -/
def Lowest (b : Byte) (i : Fin 8) : Prop := b.getLsbD i.val = true ∧ ∀ j : Fin 8, j < i → b.getLsbD j.val = false

/-- `i` is the highest set bit of `m` (41_gpio.md R173). -/
def Highest (m : Byte) (i : Fin 8) : Prop := m.getLsbD i.val = true ∧ ∀ j : Fin 8, i < j → m.getLsbD j.val = false

/-- The channel's match is flagged and enabled (60_exceptions.md R234). -/
def Matched (ch : Channel) : Prop := ch.ccifg = true ∧ ch.ccie = true

/-- The port's flagged pins include an enabled one (60_exceptions.md R234). -/
def Flagged (q : Port) : Prop := q.ifg &&& q.ie ≠ 0

/-- The requested services (60_exceptions.md R235). -/
def Requested (s : State) : Service → Prop
  | .overflow => s.ovf = true
  | .cmp0 => s.cpend0 = true
  | .cmpv => s.cpendv = true
  | .port p => s.supported p = true ∧ (s.port p).pend = true

/-- The order of SERVICE_ORDER = FIXED (60_exceptions.md R236). -/
def rank : Service → Nat
  | .overflow => 0
  | .cmp0 => 1
  | .cmpv => 2
  | .port p => 3 + p

/-- A slot is due (60_exceptions.md R240): the wrapped difference of the rounds reads as 0 or negative. -/
def Due (targetRound round : Word) : Prop :=
  let d := (targetRound.toNat + 2 ^ 32 - round.toNat) % 2 ^ 32
  d = 0 ∨ 2 ^ 31 ≤ d

/-- The ticks since the last fire, modulo 2^16 (60_exceptions.md R248). -/
def elapsed (cnt last : Half) : Nat := (cnt.toNat + 2 ^ 16 - last.toNat) % 2 ^ 16

/-- Logical time (10_state.md R64). -/
def logicalTime (s : State) : Nat := (s.round.toNat + if s.ovf then 1 else 0) % 2 ^ 32 * 2 ^ 16 + s.cnt.toNat

/-- The disarmed channel (40_timer.md R130). -/
def disarmed (ch : Channel) : Channel := { ch with ccie := false, ccifg := false, callback := 0, armed := false }

/-- The state with the next turn taken from the agenda. -/
def taken (s : State) (rest : List Turn) : State := { s with agenda := rest, turns := s.turns + 1 }

/-- The command that the next turn issues. -/
def Issues (s : State) (i : Instr) : Prop := ∃ cmd data, s.nextTurn = .host cmd data ∧ decode cmd data = .ok i

/-- A legal command word (30_encoding.md R107), bit by bit from the formats of R102. -/
def Legal (cmd : Word) : Prop :=
  match (cmd.extractLsb' 28 4).toNat with
  | 0x0 | 0x1 | 0x2 | 0x3 | 0x7 | 0xD => cmd.extractLsb' 0 28 = 0
  | 0x4 => True
  | 0x5 | 0x6 => cmd.extractLsb' 0 24 = 0
  | 0x8 => cmd.extractLsb' 14 2 = 0
  | 0x9 => cmd.extractLsb' 0 16 = 0
  | 0xA => (cmd.extractLsb' 20 4).toNat ≤ 7 ∧ cmd.extractLsb' 0 20 = 0
  | 0xB => 1 ≤ (cmd.extractLsb' 20 4).toNat ∧ (cmd.extractLsb' 20 4).toNat ≤ 6 ∧ cmd.extractLsb' 8 12 = 0
  | 0xC => cmd.extractLsb' 1 27 = 0
  | 0xE =>
    (cmd.extractLsb' 20 4).toNat ≤ 5 ∧ cmd.extractLsb' 0 20 = 0 ∧
      ((cmd.extractLsb' 20 4).toNat = 2 ∨ (cmd.extractLsb' 20 4).toNat = 3 ∨ cmd.extractLsb' 24 4 = 0)
  | _ => False

/-- The commands that read and change nothing (20_memory.md R86): all but the write commands and the read of IV. -/
def ReadsOnly : Instr → Prop
  | .nop | .tnow | .tnowx | .tquery _ | .gquery _ _ | .diag _ _ => True
  | .prd _ reg => reg ≠ .iv
  | _ => False

/-- The timer commands (40_timer.md). -/
def TimerCommand : Instr → Prop
  | .tinit | .tnow | .tnowx | .tset _ _ _ _ | .tunset _ | .tquery _ => True
  | _ => False

/-- The port a GPIO command names (30_encoding.md R102). -/
def NamesPort : Instr → Nibble → Prop
  | .gset port _ _ _, p | .gquery port _, p | .prd port _, p | .pwr port _ _, p => port = p
  | _, _ => False

/-- The GPIO commands (41_gpio.md). -/
def GpioCommand : Instr → Prop
  | .ginit | .gset _ _ _ _ | .gquery _ _ | .prd _ _ | .pwr _ _ _ => True
  | _ => False

end Sys2Proof.Claims

open Sys2Proof.Claims

/-! ## Encoding -/

/-- 30_encoding.md R102, R106: a well-formed command's transaction decodes to that command, for every operand. -/
def Obligations.DecodeOfEncode : Prop :=
  ∀ i : Instr, i.wellFormed = true → decode (encode i).1 (encode i).2 = .ok i

/-- 30_encoding.md R107: "Every legal word names exactly one command" - a word that decodes to a command is the word
that the command encodes to, and the command is well formed. -/
def Obligations.EncodeOfDecode : Prop :=
  ∀ (cmd data : Word) (i : Instr), decode cmd data = .ok i → i.wellFormed = true ∧ encodeCmd i = cmd

/-- 30_encoding.md R107, R108: the decoder is total and refuses exactly the words of R107. -/
def Obligations.DecodeRefusesExactlyIllegalWords : Prop :=
  ∀ cmd data : Word, (∃ i, decode cmd data = .ok i) ↔ Legal cmd

/-- 30_encoding.md R104: DATA is target_round for TSET, and no other command reads it. -/
def Obligations.DataIsReadByTsetAlone : Prop :=
  (∀ (ch : Nibble) (cb : Byte) (cmp : Half) (r data : Word),
      decode (encodeCmd (.tset ch cb cmp r)) data = .ok (.tset ch cb cmp data)) ∧
    ∀ cmd data data' : Word, cmd.extractLsb' 28 4 ≠ 4#4 → decode cmd data = decode cmd data'

/-- 30_encoding.md R115: the worked encodings. -/
def Obligations.WorkedEncodings : Prop :=
  decode 0x10000000 0 = .ok .tinit ∧
  decode 0x41210005 1 = .ok (.tset 1 0x21 5 1) ∧
  decode 0x81020901 0 = .ok (.gset 1 0b00000010 0x09 1) ∧
  decode 0xB2600080 0 = .ok (.pwr 2 .ifg 0x80) ∧
  decode 0xE2200000 0 = .ok (.diag 2 .bounce) ∧
  decode 0xC0000001 0 = .ok (.intctl true) ∧
  decode 0xD0000000 0 = .ok .cbdone

/-- 30_encoding.md R114: each pseudo-instruction expands to exactly the command shown. -/
def Obligations.PseudoInstructionsExpand : Prop :=
  (∀ ch cb time : Nat, time < 2 ^ 48 →
      (AsmLine.tsetat ch cb time).words = (AsmLine.tset ch cb (time % 0x10000) (time / 0x10000 % 0x100000000)).words) ∧
  (∀ port mask : Nat, (AsmLine.gdisable port mask).words = (AsmLine.gset port mask 0b100 0).words) ∧
  (∀ port pin flags : Nat, (AsmLine.gdetach port pin flags).words = (AsmLine.gset port (1 <<< pin) flags 0).words) ∧
  AsmLine.ei.words = (AsmLine.intctl 1).words ∧
  AsmLine.di.words = (AsmLine.intctl 0).words

/-- 30_encoding.md R113: every well-formed command has an assembly line that assembles to its transaction. -/
def Obligations.EveryCommandHasAnAssemblyLine : Prop :=
  ∀ i : Instr, i.wellFormed = true → ∃ line : AsmLine, line.words = .ok (encode i)

/-! ## Timer commands -/

/-- 40_timer.md, TINIT: its whole effect. -/
def Obligations.TinitStartsAndDisarms : Prop :=
  ∀ s : State, exec .tinit s = .next
    { s with
      run := true, cnt := 0, round := 0, ovf := false
      channels := s.channels.map (fun ch => { ch with ccifg := false, ccie := false, armed := false, callback := 0 })
      response := ok 0 }

/-- 40_timer.md, TNOW and TNOWX: the counter, zero-extended; round * 2^16 + counter, with the overflow in flight
counted. Nothing else changes. -/
def Obligations.TimeReadsAnswerTheCounters : Prop :=
  ∀ s : State,
    exec .tnow s = .next { s with response := ok (BitVec.ofNat 64 s.cnt.toNat) } ∧
    exec .tnowx s = .next { s with response := ok (BitVec.ofNat 64 (logicalTime s)) }

/-- 40_timer.md, TSET: the two errors in their order, and the arming of the slot. -/
def Obligations.TsetArmsSlot : Prop :=
  ∀ (s : State) (ch : Nibble) (cb : Byte) (cmp : Half) (r : Word),
    (s.run = false → exec (.tset ch cb cmp r) s = .next
      { s with faultUninit := true, response := error .notInitialised }) ∧
    (s.run = true → s.channels.length ≤ ch.toNat → exec (.tset ch cb cmp r) s = .next
      { s with response := error .invalidChannel }) ∧
    (s.run = true → ch.toNat < s.channels.length → exec (.tset ch cb cmp r) s = .next
      { s with
        channels := s.channels.set ch.toNat
          { ccr := cmp, ccie := true, ccifg := false, armed := true, targetRound := r, callback := cb }
        response := ok 0 })

/-- 40_timer.md, TUNSET: the error, and the disarming of the slot, which keeps CCR and target_round. -/
def Obligations.TunsetDisarmsSlot : Prop :=
  ∀ (s : State) (ch : Nibble),
    (s.channels.length ≤ ch.toNat → exec (.tunset ch) s = .next { s with response := error .invalidChannel }) ∧
    (∀ slot, s.channels[ch.toNat]? = some slot → exec (.tunset ch) s = .next
      { s with
        channels := s.channels.set ch.toNat
          { slot with ccie := false, ccifg := false, callback := 0, armed := false }
        response := ok 0 })

/-- 40_timer.md, TQUERY: the error, and every field of the value at its place. -/
def Obligations.TqueryReadsSlot : Prop :=
  ∀ (s : State) (ch : Nibble),
    (s.channels.length ≤ ch.toNat → exec (.tquery ch) s = .next { s with response := error .invalidChannel }) ∧
    (∀ slot, s.channels[ch.toNat]? = some slot →
      ∃ v : Long, exec (.tquery ch) s = .next { s with response := ok v } ∧
        v.extractLsb' 0 32 = slot.targetRound ∧ v.extractLsb' 32 16 = slot.ccr ∧
        v.getLsbD 48 = slot.armed ∧ v.getLsbD 49 = slot.ccie ∧ v.getLsbD 50 = slot.ccifg ∧
        v.extractLsb' 51 5 = 0 ∧ v.extractLsb' 56 8 = slot.callback)

/-- 40_timer.md and 41_gpio.md: TINIT, TUNSET and GINIT are idempotent - a second one, right after the first, leaves
exactly the state the first left. -/
def Obligations.ClearingCommandsAreIdempotent : Prop :=
  ∀ (s : State) (i : Instr), (i = .tinit ∨ i = .ginit ∨ ∃ ch, i = .tunset ch) →
    ∃ t : State, exec i s = .next t ∧ exec i t = .next t

/-! ## GPIO commands -/

/-- 41_gpio.md, GINIT: the pin table is cleared and GINIT_DONE is set; no port register, latch or counter changes. -/
def Obligations.GinitClearsPinTable : Prop :=
  ∀ s : State, ∃ ports : List Port,
    exec .ginit s = .next { s with ports := ports, ginitDone := true, response := ok 0 } ∧
    ports.length = s.ports.length ∧
    ∀ (k : Nat) (q q' : Port), s.ports[k]? = some q → ports[k]? = some q' →
      q' = { q with pins := q'.pins } ∧ ∀ i : Fin 8, q'.pins[i] = { cb := 0, deb := false, last := 0 }

/-- 41_gpio.md, GSET's errors in the order of 60_exceptions.md, section 6: not initialised, port, mask. -/
def Obligations.GsetErrorsInOrder : Prop :=
  ∀ (s : State) (port : Nibble) (mask flags cb : Byte), flags.getLsbD 6 = false → flags.getLsbD 7 = false →
    (s.ginitDone = false → exec (.gset port mask flags cb) s = .next
      { s with faultUninit := true, response := error .notInitialised }) ∧
    (s.ginitDone = true → ¬(s.portMin ≤ port.toNat ∧ port.toNat < s.portMin + s.ports.length) →
      exec (.gset port mask flags cb) s = .next { s with response := error .invalidPort }) ∧
    (s.ginitDone = true → s.portMin ≤ port.toNat → port.toNat < s.portMin + s.ports.length → mask = 0 →
      exec (.gset port mask flags cb) s = .next { s with response := error .invalidPinSelection })

/-- 41_gpio.md, GSET with DISABLE: it clears the enables of the mask's pins (in SAVED_IE while a callback of the port
is outstanding) and nothing else, whatever the other flags say. -/
def Obligations.GsetDisableClearsEnablesOnly : Prop :=
  ∀ (s : State) (port : Nibble) (mask flags cb : Byte),
    flags.getLsbD 6 = false → flags.getLsbD 7 = false → flags.getLsbD 2 = true →
    s.ginitDone = true → s.supported port.toNat = true → mask ≠ 0 →
    ((∀ i cb', s.eng ≠ .waitGpio port.toNat i cb') → exec (.gset port mask flags cb) s = .next
      { s.setPort port.toNat { s.port port.toNat with ie := (s.port port.toNat).ie &&& ~~~mask } with
        response := ok 0 }) ∧
    (∀ i cb', s.eng = .waitGpio port.toNat i cb' → exec (.gset port mask flags cb) s = .next
      { s.setPort port.toNat { s.port port.toNat with savedIe := (s.port port.toNat).savedIe &&& ~~~mask } with
        response := ok 0 })

/-- 41_gpio.md, GSET: the whole configuration and registration, register by register, and what it leaves alone. That the
spurious flags are the draw numbered by State.draws, and that the count goes up with a draw, is the model's choice
(log 3). -/
def Obligations.GsetConfiguresPins : Prop :=
  ∀ (s : State) (port : Nibble) (mask flags cb : Byte),
    flags.getLsbD 6 = false → flags.getLsbD 7 = false → flags.getLsbD 2 = false →
    s.ginitDone = true → s.supported port.toNat = true → mask ≠ 0 →
    ∃ t : State, exec (.gset port mask flags cb) s = .next t ∧
      t = { s with ports := t.ports, flagMultibit := t.flagMultibit, draws := drawsAfter s, response := ok 0 } ∧
      t.ports.length = s.ports.length ∧ (∀ k, k ≠ port.toNat → t.port k = s.port k) ∧
      (t.flagMultibit = true ↔ s.flagMultibit = true ∨
        ∃ i j : Fin 8, i ≠ j ∧ mask.getLsbD i.val = true ∧ mask.getLsbD j.val = true) ∧
      let q := s.port port.toNat
      let r := t.port port.toNat
      r.out = (if flags.getLsbD 3 then q.out ||| mask else if flags.getLsbD 4 then q.out &&& ~~~mask else q.out) ∧
      r.dir = q.dir &&& ~~~mask ∧
      r.ren = (if flags.getLsbD 3 || flags.getLsbD 4 then q.ren ||| mask else q.ren &&& ~~~mask) ∧
      r.ies = (if flags.getLsbD 1 then q.ies ||| mask else q.ies &&& ~~~mask) ∧
      ((∀ i cb', s.eng ≠ .waitGpio port.toNat i cb') → r.ie = q.ie ||| mask ∧ r.savedIe = q.savedIe) ∧
      (∀ i cb', s.eng = .waitGpio port.toNat i cb' → r.ie = q.ie ∧ r.savedIe = q.savedIe ||| mask) ∧
      r.ext = q.ext ∧ r.pend = q.pend ∧ r.bounceCnt = q.bounceCnt ∧ r.spurCnt = q.spurCnt ∧
      ∀ i : Fin 8,
        (Highest mask i → r.pins[i] = { q.pins[i] with cb := cb, deb := flags.getLsbD 5 } ∧
          r.ifg.getLsbD i.val = false) ∧
        (¬Highest mask i → r.pins[i] = q.pins[i] ∧
          r.ifg.getLsbD i.val = (q.ifg.getLsbD i.val ||
            edgeSeen (pinLevel q i.val) (pinLevel r i.val) (r.ies.getLsbD i.val) ||
            (spuriousBits s).getLsbD i.val))

/-- 41_gpio.md, GQUERY: the errors in their order, and every field of the value at its place. -/
def Obligations.GqueryReadsPinEntry : Prop :=
  ∀ (s : State) (port : Nibble) (pin : Byte),
    (s.supported port.toNat = false → exec (.gquery port pin) s = .next { s with response := error .invalidPort }) ∧
    (s.supported port.toNat = true → 8 ≤ pin.toNat → exec (.gquery port pin) s = .next
      { s with response := error .invalidPinSelection }) ∧
    (∀ i : Fin 8, s.supported port.toNat = true → pin.toNat = i.val →
      ∃ v : Long, exec (.gquery port pin) s = .next { s with response := ok v } ∧
        v.extractLsb' 0 16 = (s.port port.toNat).pins[i].last ∧
        v.getLsbD 16 = (s.port port.toNat).pins[i].deb ∧ v.extractLsb' 17 7 = 0 ∧
        v.extractLsb' 24 8 = (s.port port.toNat).pins[i].cb ∧ v.extractLsb' 32 32 = 0)

/-- 41_gpio.md, PRD of the codes 0 to 6: the value, zero-extended; nothing changes. An unsupported port is an error. -/
def Obligations.PrdReadsRegisters : Prop :=
  ∀ (s : State) (port : Nibble),
    (s.supported port.toNat = false → ∀ reg, exec (.prd port reg) s = .next
      { s with response := error .invalidPort }) ∧
    (s.supported port.toNat = true →
      let q := s.port port.toNat
      let answers (reg : PortReg) (v : Byte) : Prop :=
        exec (.prd port reg) s = .next { s with response := ok (BitVec.ofNat 64 v.toNat) }
      (∃ v : Byte, answers .inp v ∧ ∀ i : Fin 8, v.getLsbD i.val = pinLevel q i.val) ∧
      answers .out q.out ∧ answers .dir q.dir ∧ answers .ren q.ren ∧ answers .ies q.ies ∧ answers .ifg q.ifg ∧
      ((∀ i cb, s.eng ≠ .waitGpio port.toNat i cb) → answers .ie q.ie) ∧
      (∀ i cb, s.eng = .waitGpio port.toNat i cb → answers .ie q.savedIe))

/-- 41_gpio.md, the port vector read by PRD code 7: 0 and no change where no pin is flagged; else 2 * (i + 1) for the
lowest flagged pin `i`, whatever IE holds, and that flag alone is cleared. -/
def Obligations.PrdVectorReportsLowestFlag : Prop :=
  ∀ (s : State) (port : Nibble), s.supported port.toNat = true →
    ((s.port port.toNat).ifg = 0 → exec (.prd port .iv) s = .next { s with response := ok 0 }) ∧
    (∀ i : Fin 8, Lowest (s.port port.toNat).ifg i → ∃ f : Byte,
      exec (.prd port .iv) s = .next
        { s.setPort port.toNat { s.port port.toNat with ifg := f } with
          response := ok (BitVec.ofNat 64 (2 * (i.val + 1))) } ∧
      ∀ j : Fin 8, f.getLsbD j.val = ((s.port port.toNat).ifg.getLsbD j.val && decide (j ≠ i)))

/-- 41_gpio.md, PWR of the plain codes IES, IE and IFG, and its errors. -/
def Obligations.PwrWritesPlainRegisters : Prop :=
  ∀ (s : State) (port : Nibble) (v : Byte),
    (s.supported port.toNat = false → ∀ reg : PortReg, reg ≠ .inp → reg ≠ .iv →
      exec (.pwr port reg v) s = .next { s with response := error .invalidPort }) ∧
    (s.supported port.toNat = true →
      exec (.pwr port .ies v) s = .next
        { s.setPort port.toNat { s.port port.toNat with ies := v } with response := ok 0 } ∧
      exec (.pwr port .ifg v) s = .next
        { s.setPort port.toNat { s.port port.toNat with ifg := v } with response := ok 0 } ∧
      ((∀ i cb, s.eng ≠ .waitGpio port.toNat i cb) → exec (.pwr port .ie v) s = .next
        { s.setPort port.toNat { s.port port.toNat with ie := v } with response := ok 0 }) ∧
      (∀ i cb, s.eng = .waitGpio port.toNat i cb → exec (.pwr port .ie v) s = .next
        { s.setPort port.toNat { s.port port.toNat with savedIe := v } with response := ok 0 }))

/-- 41_gpio.md, PWR of OUT, DIR and REN: the register, the flags of the edges that OUT and DIR make, and the spurious
flags, a free draw. That the draw is numbered by State.draws, and that the count goes up with a draw, is the model's
choice (log 3). -/
def Obligations.PwrWritesSetFlags : Prop :=
  ∀ (s : State) (port : Nibble) (v : Byte), s.supported port.toNat = true →
    let q := s.port port.toNat
    let writes (reg : PortReg) (q' : Port) : Prop :=
      ∃ f : Byte, exec (.pwr port reg v) s = .next
          { s.setPort port.toNat { q' with ifg := f } with draws := drawsAfter s, response := ok 0 } ∧
        ∀ i : Fin 8, f.getLsbD i.val = (q.ifg.getLsbD i.val ||
          edgeSeen (pinLevel q i.val) (pinLevel q' i.val) (q.ies.getLsbD i.val) || (spuriousBits s).getLsbD i.val)
    writes .out { q with out := v } ∧ writes .dir { q with dir := v } ∧ writes .ren { q with ren := v }

/-! ## Control commands -/

/-- 42_control.md, NOP and INTCTL: the whole effect of NOP is the response; INTCTL writes GIE and nothing else. -/
def Obligations.NopAndIntctlWriteGieAtMost : Prop :=
  ∀ s : State, exec .nop s = .next { s with response := ok 0 } ∧
    ∀ e : Bool, exec (.intctl e) s = .next { s with gie := e, response := ok 0 }

/-- 42_control.md, CBDONE: the error with ENG idle; a timer callback ends with ENG alone; a GPIO callback ends with
the port's flags cleared and its IE restored from SAVED_IE. -/
def Obligations.CbdoneReturnsFromCallback : Prop :=
  ∀ s : State,
    (s.eng = .idle → exec .cbdone s = .next { s with response := error .noCallbackPending }) ∧
    (∀ c cb, s.eng = .waitTimer c cb → exec .cbdone s = .next { s with eng := .idle, response := ok 0 }) ∧
    (∀ p i cb, s.eng = .waitGpio p i cb → s.supported p = true → exec .cbdone s = .next
      { s.setPort p { s.port p with ifg := 0, ie := (s.port p).savedIe } with eng := .idle, response := ok 0 })

/-- 42_control.md, DIAG of the counters, the raw ROUND and the two views; an unsupported port is an error. -/
def Obligations.DiagReadsDiagnostics : Prop :=
  ∀ (s : State) (port : Nibble),
    let answers (port : Nibble) (sel : DiagSel) (v : Nat) : Prop :=
      exec (.diag port sel) s = .next { s with response := ok (BitVec.ofNat 64 v) }
    answers 0 .status s.statusWord.toNat ∧ answers 0 .cbinfo s.eng.info.toNat ∧
    answers 0 .tspur s.tspurCnt.toNat ∧ answers 0 .round s.round.toNat ∧
    (s.supported port.toNat = true →
      answers port .bounce (s.port port.toNat).bounceCnt.toNat ∧
      answers port .spur (s.port port.toNat).spurCnt.toNat) ∧
    (s.supported port.toNat = false → ∀ sel, sel = .bounce ∨ sel = .spur →
      exec (.diag port sel) s = .next { s with response := error .invalidPort })

/-- 10_state.md R61: every bit of the STATUS word, which DIAG select 0 returns. -/
def Obligations.StatusWordBits : Prop :=
  ∀ s : State,
    let w := s.statusWord
    exec (.diag 0 .status) s = .next { s with response := ok (BitVec.ofNat 64 w.toNat) } ∧
    w.getLsbD 0 = s.gie ∧ w.getLsbD 1 = s.run ∧ w.getLsbD 2 = s.ginitDone ∧
    (w.getLsbD 3 = true ↔ s.eng ≠ .idle) ∧
    w.getLsbD 4 = s.ovf ∧ w.getLsbD 5 = s.cpend0 ∧ w.getLsbD 6 = s.cpendv ∧ w.getLsbD 7 = false ∧
    w.getLsbD 8 = s.faultUninit ∧ w.getLsbD 9 = s.faultOvfMissed ∧ w.getLsbD 10 = s.flagMultibit ∧
    w.extractLsb' 11 5 = 0 ∧ w.getLsbD 16 = false ∧
    ∀ p, 1 ≤ p → p ≤ 15 → (w.getLsbD (16 + p) = true ↔ s.supported p = true ∧ (s.port p).pend = true)

/-- 10_state.md R62: every field of the CBINFO word, which DIAG select 1 returns. -/
def Obligations.CallbackInfoFields : Prop :=
  (∀ s : State, exec (.diag 0 .cbinfo) s = .next { s with response := ok (BitVec.ofNat 64 s.eng.info.toNat) }) ∧
  Eng.idle.info = 0 ∧
  (∀ (c : Nat) (cb : Byte), c < 16 →
    let w := (Eng.waitTimer c cb).info
    w.extractLsb' 16 8 = cb ∧ (w.extractLsb' 4 4).toNat = c ∧ w.getLsbD 1 = false ∧ w.getLsbD 0 = true ∧
      w.extractLsb' 24 8 = 0 ∧ w.extractLsb' 8 8 = 0 ∧ w.extractLsb' 2 2 = 0) ∧
  (∀ (p : Nat) (i : Fin 8) (cb : Byte), p < 16 →
    let w := (Eng.waitGpio p i cb).info
    w.extractLsb' 16 8 = cb ∧ (w.extractLsb' 8 3).toNat = i.val ∧ (w.extractLsb' 4 4).toNat = p ∧
      w.getLsbD 1 = true ∧ w.getLsbD 0 = true ∧
      w.extractLsb' 24 8 = 0 ∧ w.extractLsb' 11 5 = 0 ∧ w.extractLsb' 2 2 = 0)

/-! ## All commands -/

/-- 30_encoding.md, section 3 and 60_exceptions.md, section 1: a command that answers a status other than OK answers
value 0 and changes no state, except that NotInitialised sets FAULT_UNINIT. -/
def Obligations.ErrorsChangeNothing : Prop :=
  ∀ (i : Instr) (s t : State), exec i s = .next t → t.response.status ≠ .ok →
    t.response.value = 0 ∧
    (t.response.status ≠ .notInitialised → t = { s with response := t.response }) ∧
    (t.response.status = .notInitialised → t = { s with response := t.response, faultUninit := true })

/-- 20_memory.md, section 3: the reading commands, but for the read of IV, change nothing but the response. -/
def Obligations.ReadsChangeNothing : Prop :=
  ∀ (i : Instr) (s t : State), ReadsOnly i → exec i s = .next t → t = { s with response := t.response }

/-- The frame of the timer commands (40_timer.md, the "Written" lists): the GPIO unit, the request latches, GIE, ENG, the
timer's spurious count, FAULT_OVF_MISSED, FLAG_MULTIBIT and the trace stay; the channels keep their number. -/
def Obligations.TimerCommandsLeaveGpio : Prop :=
  ∀ (i : Instr) (s t : State), TimerCommand i → exec i s = .next t →
    t = { s with
      cnt := t.cnt, run := t.run, round := t.round, ovf := t.ovf, channels := t.channels
      faultUninit := t.faultUninit, response := t.response } ∧
    t.channels.length = s.channels.length

/-- The frame of the GPIO commands (41_gpio.md, the "Written" lists): the timer unit, GIE, ENG, FAULT_OVF_MISSED and the
trace stay; EXT, PEND and the diagnostic counters of every port stay; and where the command names a port, every other
port stays whole. -/
def Obligations.GpioCommandsLeaveTimer : Prop :=
  ∀ (i : Instr) (s t : State), GpioCommand i → exec i s = .next t →
    t = { s with
      ports := t.ports, ginitDone := t.ginitDone, faultUninit := t.faultUninit, flagMultibit := t.flagMultibit
      draws := t.draws, response := t.response } ∧
    t.ports.length = s.ports.length ∧
    ∀ p, (t.port p).ext = (s.port p).ext ∧ (t.port p).pend = (s.port p).pend ∧
      (t.port p).bounceCnt = (s.port p).bounceCnt ∧ (t.port p).spurCnt = (s.port p).spurCnt ∧
      ∀ port, NamesPort i port → p ≠ port.toNat → t.port p = s.port p

/-! ## Steps -/

/-- A step runs the decoded command (00_scope.md, section 5; 30_encoding.md, section 5): HOST's turn at the head of the
agenda is exec of the command that its words name, or IllegalCommand; then the event of the command is appended and the
latches are updated. The third clause is the model's own reading: withFetchWord places a word of the opcode table as the
next turn of HOST (log 4), with DATA = 0 (log 9). -/
def Obligations.StepRunsDecodedCommand : Prop :=
  (∀ (s : State) (cmd data : Word) (rest : List Turn), s.agenda = .host cmd data :: rest →
    (∀ (i : Instr) (t : State), decode cmd data = .ok i → exec i (taken s rest) = .next t →
      step s = .next { t with trace := .cmd cmd data t.response :: t.trace }.updateLatches) ∧
    (∀ e, decode cmd data = .error e →
      step s = .next { taken s rest with
        response := error .illegalCommand
        trace := .cmd cmd data (error .illegalCommand) :: s.trace }.updateLatches)) ∧
  (∀ (s : State) (w : Nat), w < 2 ^ 32 →
    s.withFetchWord 32 w = { s with agenda := .host (BitVec.ofNat 32 w) 0 :: s.agenda })

/-- 60_exceptions.md R233: the whole TICK step. -/
def Obligations.TickAdvancesCounter : Prop :=
  ∀ (s : State) (rest : List Turn), s.agenda = .tick :: rest →
    (s.run = false → step s = .next { taken s rest with trace := .tick :: s.trace }.updateLatches) ∧
    (s.run = true → ∃ channels : List Channel,
      step s = .next { taken s rest with
        cnt := BitVec.ofNat 16 (s.cnt.toNat + 1)
        ovf := s.ovf || decide (s.cnt.toNat = 2 ^ 16 - 1)
        faultOvfMissed := s.faultOvfMissed || (s.ovf && decide (s.cnt.toNat = 2 ^ 16 - 1))
        channels := channels
        trace := .tick :: s.trace }.updateLatches ∧
      channels.length = s.channels.length ∧
      ∀ (c : Nat) (ch ch' : Channel), s.channels[c]? = some ch → channels[c]? = some ch' →
        ch' = { ch with ccifg := ch'.ccifg } ∧
        (ch'.ccifg = true ↔ ch.ccifg = true ∨ ch.ccr.toNat = (s.cnt.toNat + 1) % 2 ^ 16))

/-- 41_gpio.md R181 with the edge detector of R170: the whole ENV step. -/
def Obligations.PinStepDetectsEdges : Prop :=
  ∀ (s : State) (p : Nat) (v : Byte) (rest : List Turn), s.agenda = .pin p v :: rest → s.supported p = true →
    let q := s.port p
    ∃ f : Byte,
      step s = .next { (taken s rest).setPort p { q with ext := v, ifg := f } with
        trace := .pin p v :: s.trace }.updateLatches ∧
      ∀ i : Fin 8, f.getLsbD i.val = (q.ifg.getLsbD i.val ||
        edgeSeen (pinLevel q i.val) (pinLevel { q with ext := v } i.val) (q.ies.getLsbD i.val))

/-- 60_exceptions.md R234: the latch update sets each latch exactly where its request stands, and nothing else changes;
and a step clears a latch only where the ENGINE performs that latch's service. -/
def Obligations.LatchUpdate : Prop :=
  (∀ s : State, ∃ ports : List Port,
    s.updateLatches = { s with
      cpend0 := s.updateLatches.cpend0, cpendv := s.updateLatches.cpendv, ports := ports } ∧
    (s.updateLatches.cpend0 = true ↔ s.cpend0 = true ∨ ∃ ch, s.channels[0]? = some ch ∧ Matched ch) ∧
    (s.updateLatches.cpendv = true ↔
      s.cpendv = true ∨ ∃ (c : Nat) (ch : Channel), 1 ≤ c ∧ s.channels[c]? = some ch ∧ Matched ch) ∧
    ports.length = s.ports.length ∧
    ∀ (k : Nat) (q q' : Port), s.ports[k]? = some q → ports[k]? = some q' →
      q' = { q with pend := q'.pend } ∧ (q'.pend = true ↔ q.pend = true ∨ Flagged q)) ∧
  ∀ s t : State, step s = .next t →
    (s.cpend0 = true → t.cpend0 = false → s.nextTurn = .engine .cmp0 ∧ s.enabled .cmp0 = true) ∧
    (s.cpendv = true → t.cpendv = false → s.nextTurn = .engine .cmpv ∧ s.enabled .cmpv = true) ∧
    ∀ p, (s.port p).pend = true → (t.port p).pend = false →
      s.nextTurn = .engine (.port p) ∧ s.enabled (.port p) = true

/-- 60_exceptions.md R235, R236: when the ENGINE may perform a service. -/
def Obligations.EngineEnabledExactly : Prop :=
  ∀ (s : State) (svc : Service),
    s.enabled svc = true ↔
      s.eng = .idle ∧ s.gie = true ∧ Requested s svc ∧
        (s.settings.serviceOrder = .fixed → ∀ other, Requested s other → rank svc ≤ rank other)

/-- 60_exceptions.md, section 3 with the latch update: an enabled service is performed in one step; a turn of the ENGINE
for a service that is not enabled, and a level change of an unsupported port, pass (the model's choice, log 5). -/
def Obligations.EngineTurnServesOrPasses : Prop :=
  ∀ (s : State) (rest : List Turn),
    (∀ svc, s.agenda = .engine svc :: rest →
      (s.enabled svc = true → step s = .next ((taken s rest).serve svc).updateLatches) ∧
      (s.enabled svc = false → step s = .next (taken s rest))) ∧
    (∀ p v, s.agenda = .pin p v :: rest → s.supported p = false → step s = .next (taken s rest))

/-! ## Services -/

/-- 60_exceptions.md, the overflow service: the round moves, and slot 0 fires exactly where it is armed for the new
round and its compare value is not ahead of the counter. -/
def Obligations.OverflowServicePollsSlotZero : Prop :=
  ∀ s : State,
    let slot := s.chan 0
    let s' : State := { s with ovf := false, round := s.round + 1 }
    let fires := slot.armed = true ∧ slot.targetRound = s.round + 1 ∧ slot.ccr.toNat ≤ s.cnt.toNat
    (¬fires → s.serve .overflow = s') ∧
    (fires → slot.callback = 0 → s.serve .overflow = { s' with channels := s.channels.set 0 (disarmed slot) }) ∧
    (fires → slot.callback ≠ 0 → s.serve .overflow = { s' with
      channels := s.channels.set 0 (disarmed slot)
      trace := .callback slot.callback (.timer 0) :: s.trace
      eng := .waitTimer 0 slot.callback })

/-- 60_exceptions.md, the expiry check: a disarmed channel is counted; a due slot is disarmed and its callback, where it
has one, is emitted; a slot not yet due loses its match flag alone. -/
def Obligations.ExpiryCheckFiresDueSlots : Prop :=
  ∀ (s : State) (c : Nat) (slot : Channel), s.channels[c]? = some slot →
    (slot.armed = false → s.expiryCheck c = { s with tspurCnt := s.tspurCnt + 1 }) ∧
    (slot.armed = true → ¬Due slot.targetRound s.round →
      s.expiryCheck c = { s with channels := s.channels.set c { slot with ccifg := false } }) ∧
    (slot.armed = true → Due slot.targetRound s.round → slot.callback = 0 →
      s.expiryCheck c = { s with channels := s.channels.set c (disarmed slot) }) ∧
    (slot.armed = true → Due slot.targetRound s.round → slot.callback ≠ 0 →
      s.expiryCheck c = { s with
        channels := s.channels.set c (disarmed slot)
        trace := .callback slot.callback (.timer c) :: s.trace
        eng := .waitTimer c slot.callback })

/-- 60_exceptions.md, the compare services: CMP0 checks channel 0 again; CMPV handles the lowest matched channel of
1..N-1; either counts a spurious service where it finds none. -/
def Obligations.CompareServicesHandleLowestMatch : Prop :=
  ∀ s : State,
    (¬Matched (s.chan 0) → s.serve .cmp0 = { s with cpend0 := false, tspurCnt := s.tspurCnt + 1 }) ∧
    (Matched (s.chan 0) → s.serve .cmp0 = State.expiryCheck { s with
      cpend0 := false, channels := s.channels.set 0 { s.chan 0 with ccifg := false } } 0) ∧
    ((∀ c, 1 ≤ c → ¬Matched (s.chan c)) →
      s.serve .cmpv = { s with cpendv := false, tspurCnt := s.tspurCnt + 1 }) ∧
    (∀ c, 1 ≤ c → Matched (s.chan c) → (∀ k, 1 ≤ k → k < c → ¬Matched (s.chan k)) →
      s.serve .cmpv = State.expiryCheck { s with
        cpendv := false, channels := s.channels.set c { s.chan c with ccifg := false } } c)

/-- 60_exceptions.md R245, R246 and the bounce of R248: the dispatches that invoke nothing - the sentinel, a lowest
flagged pin that was not enabled, a bounce - clear the port's flags, keep its IE and count one event. -/
def Obligations.DispatchAbsorbsSpuriousAndBounce : Prop :=
  ∀ (s : State) (p : Nat), s.supported p = true →
    let q := s.port p
    let absorbs (q' : Port) : Prop := s.serve (.port p) =
      { s.setPort p { q' with pend := false, savedIe := q.ie, ifg := 0 } with eng := .idle }
    (q.ifg = 0 → absorbs { q with spurCnt := q.spurCnt + 1 }) ∧
    (∀ i, Lowest q.ifg i → q.ie.getLsbD i.val = false → absorbs { q with spurCnt := q.spurCnt + 1 }) ∧
    (∀ i, Lowest q.ifg i → q.ie.getLsbD i.val = true → q.pins[i].deb = true →
      elapsed s.cnt q.pins[i].last ≤ s.settings.d.toNat → absorbs { q with bounceCnt := q.bounceCnt + 1 })

/-- 60_exceptions.md R247, R248, R249: the dispatches that are accepted - no debounce, or more than D ticks since the
last accepted event, which is then stamped - emit the pin's callback and wait with the port masked, or swallow the event
where the pin has no callback. -/
def Obligations.DispatchInvokesAcceptedPin : Prop :=
  ∀ (s : State) (p : Nat) (i : Fin 8), s.supported p = true →
    let q := s.port p
    Lowest q.ifg i → q.ie.getLsbD i.val = true →
    (q.pins[i].deb = true → s.settings.d.toNat < elapsed s.cnt q.pins[i].last) →
    let pins := if q.pins[i].deb then q.pins.set i.val { q.pins[i] with last := s.cnt } else q.pins
    (q.pins[i].cb = 0 → s.serve (.port p) =
      { s.setPort p { q with pend := false, savedIe := q.ie, ifg := 0, pins := pins } with eng := .idle }) ∧
    (q.pins[i].cb ≠ 0 → ∃ f : Byte, s.serve (.port p) =
      { s.setPort p { q with pend := false, savedIe := q.ie, ie := 0, ifg := f, pins := pins } with
        trace := .callback q.pins[i].cb (.gpio p i) :: s.trace
        eng := .waitGpio p i q.pins[i].cb } ∧
      ∀ j : Fin 8, f.getLsbD j.val = (q.ifg.getLsbD j.val && decide (j ≠ i)))

/-- 41_gpio.md, section 1 and 60_exceptions.md, section 5: what a callback writes into its own port's IE, by PWR or by
GSET, is what CBDONE restores. -/
def Obligations.CallbackReconfigurationSurvives : Prop :=
  ∀ (s : State) (port : Nibble) (i : Fin 8) (cb v mask flags cb' : Byte),
    s.eng = .waitGpio port.toNat i cb → s.supported port.toNat = true → s.ginitDone = true → mask ≠ 0 →
    flags.getLsbD 6 = false → flags.getLsbD 7 = false → flags.getLsbD 2 = false →
    (∃ t u, exec (.pwr port .ie v) s = .next t ∧ exec .cbdone t = .next u ∧
      (t.port port.toNat).ie = (s.port port.toNat).ie ∧
      (u.port port.toNat).ie = v ∧ (u.port port.toNat).ifg = 0 ∧ u.eng = .idle) ∧
    (∃ t u, exec (.gset port mask flags cb') s = .next t ∧ exec .cbdone t = .next u ∧
      (t.port port.toNat).ie = (s.port port.toNat).ie ∧
      (u.port port.toNat).ie = (s.port port.toNat).savedIe ||| mask ∧ (u.port port.toNat).ifg = 0 ∧ u.eng = .idle)

/-! ## The whole machine -/

/-- 70_reset_and_hazards.md R301: the state right after reset, for any parameters and any draw of the external
levels. -/
def Obligations.ResetValues : Prop :=
  ∀ (prm : Params) (ext : Nat → Byte),
    let s := State.resetWith prm ext
    s.cnt = 0 ∧ s.run = false ∧ s.round = 0 ∧ s.ovf = false ∧
    s.channels.length = prm.n ∧
    (∀ ch ∈ s.channels, ch.ccr = 0 ∧ ch.ccie = false ∧ ch.ccifg = false ∧ ch.armed = false ∧ ch.targetRound = 0 ∧
      ch.callback = 0) ∧
    s.cpend0 = false ∧ s.cpendv = false ∧ s.tspurCnt = 0 ∧
    (∀ p, s.supported p = true ↔ prm.portMin ≤ p ∧ p ≤ prm.portMax) ∧
    (∀ p, s.supported p = true →
      let q := s.port p
      q.out = 0 ∧ q.dir = 0 ∧ q.ren = 0 ∧ q.ies = 0 ∧ q.ie = 0 ∧ q.ifg = 0 ∧ q.ext = ext p ∧
      q.savedIe = 0 ∧ q.pend = false ∧ q.bounceCnt = 0 ∧ q.spurCnt = 0 ∧
      (∀ i : Fin 8, q.pins[i].cb = 0 ∧ q.pins[i].deb = false ∧ q.pins[i].last = 0) ∧
      ∀ i : Fin 8, pinLevel q i.val = (ext p).getLsbD i.val) ∧
    s.ginitDone = false ∧ s.gie = false ∧ s.eng = .idle ∧
    s.faultUninit = false ∧ s.faultOvfMissed = false ∧ s.flagMultibit = false ∧ s.trace = []

/-- The invariant holds right after reset, for all parameters that R6 admits and every draw of the external levels. -/
def Obligations.InvariantAtReset : Prop :=
  ∀ (prm : Params) (ext : Nat → Byte), prm.valid = true → (State.resetWith prm ext).Inv

/-- Every step keeps the invariant (Safety.lean: the parameters' constraints, CCIE = armed, no callback in an unarmed
slot, ENG names what exists and masks its port, the reset values before TINIT and before GINIT, every request
latched). -/
def Obligations.StepKeepsInvariant : Prop :=
  ∀ s t : State, s.Inv → step s = .next t → t.Inv

/-- Every state that a run reaches, whatever the world outside does between steps, meets the invariant. -/
def Obligations.ReachableStatesMeetInvariant : Prop :=
  ∀ (prm : Params) (ext : Nat → Byte) (s : State), prm.valid = true → State.Reachable prm ext s → s.Inv

/-- 00_scope.md, section 5: a run has no end state - every step of every state gives a next state. -/
def Obligations.EveryStepGoesOn : Prop := ∀ s : State, ∃ t : State, step s = .next t

/-- 10_state.md R64: with RUN = 1, TICK adds 1 to logical time modulo 2^48, but where it loses a wrap; with RUN = 0 TICK
leaves it; and nothing else but TINIT moves it. -/
def Obligations.LogicalTimeMovesByTickAlone : Prop :=
  ∀ s t : State, step s = .next t →
    (s.nextTurn = .tick → s.run = true → ¬(s.ovf = true ∧ s.cnt = 0xFFFF) →
      logicalTime t = (logicalTime s + 1) % 2 ^ 48) ∧
    (s.nextTurn = .tick → s.run = false → logicalTime t = logicalTime s) ∧
    (s.nextTurn ≠ .tick → ¬Issues s .tinit → logicalTime t = logicalTime s)

/-- 10_state.md, ROUND: it moves only by the overflow service, by exactly 1, and by TINIT, to 0. -/
def Obligations.RoundMovesByOverflowServiceAlone : Prop :=
  ∀ s t : State, step s = .next t → t.round ≠ s.round →
    (s.nextTurn = .engine .overflow ∧ s.enabled .overflow = true ∧ t.round = s.round + 1) ∨
      (Issues s .tinit ∧ t.round = 0)

/-- 10_state.md, section 4: only INTCTL writes GIE; a service and a return leave it (60_exceptions.md, sections 3
and 6). -/
def Obligations.GieIsWrittenByIntctlAlone : Prop :=
  ∀ s t : State, step s = .next t → t.gie ≠ s.gie → Issues s (.intctl t.gie)

/-- 10_state.md R59, R60: the fault bits and FLAG_MULTIBIT are sticky - no step clears them - and RUN and GINIT_DONE stay
set. -/
def Obligations.StickyBitsStaySet : Prop :=
  ∀ s t : State, step s = .next t →
    (s.faultUninit = true → t.faultUninit = true) ∧ (s.faultOvfMissed = true → t.faultOvfMissed = true) ∧
    (s.flagMultibit = true → t.flagMultibit = true) ∧ (s.run = true → t.run = true) ∧
    (s.ginitDone = true → t.ginitDone = true)

/-- 00_scope.md, section 3: no step changes a parameter, and the external levels move by ENV alone (10_state.md,
EXT). -/
def Obligations.ParametersAndExternalLevelsStay : Prop :=
  ∀ s t : State, step s = .next t →
    t.settings = s.settings ∧ t.portMin = s.portMin ∧ t.channels.length = s.channels.length ∧
    t.ports.length = s.ports.length ∧
    ∀ p, (t.port p).ext ≠ (s.port p).ext → s.nextTurn = .pin p (t.port p).ext

/-- 20_memory.md, sections 2 and 4: BUS_BYTE_ORDER and PLATFORM_BASE change nothing - a step of the machine with other
values of them is the same step. -/
def Obligations.PlatformParametersDoNotMatter : Prop :=
  ∀ (s t : State) (order : ByteOrder) (base : Option Nat), step s = .next t →
    step { s with settings := { s.settings with busByteOrder := order, platformBase := base } } =
      .next { t with settings := { t.settings with busByteOrder := order, platformBase := base } }

/-- 60_exceptions.md, section 6: services do not nest - while a callback is outstanding, the ENGINE performs no service, no
callback is emitted, and only CBDONE ends the wait. That a turn of the ENGINE passes then, with no event and no latch
update, is the model's choice (log 5). -/
def Obligations.ServicesDoNotNest : Prop :=
  ∀ s t : State, s.eng ≠ .idle → step s = .next t →
    (∀ svc, s.nextTurn = .engine svc → t = s.popTurn) ∧
    (∀ cb src, .callback cb src ∈ t.trace → .callback cb src ∈ s.trace) ∧
    (t.eng = s.eng ∨ (t.eng = .idle ∧ Issues s .cbdone))

/-- 60_exceptions.md, sections 3 and 4: a timer callback is emitted only by an enabled service of the timer, for a slot
that is armed and due; the slot is then UNARMED and the ENGINE waits for that callback. -/
def Obligations.TimerCallbackOnlyFromDueSlot : Prop :=
  ∀ (s t : State) (c : Nat) (cb : Byte), step s = .next t → t.trace = .callback cb (.timer c) :: s.trace →
    (∃ svc, s.nextTurn = .engine svc ∧ s.enabled svc = true ∧
      ((svc = .overflow ∧ c = 0 ∧ (s.chan 0).targetRound = s.round + 1 ∧ (s.chan 0).ccr.toNat ≤ s.cnt.toNat) ∨
        (svc = .cmp0 ∧ c = 0 ∧ Matched (s.chan 0) ∧ Due (s.chan 0).targetRound s.round) ∨
        (svc = .cmpv ∧ 1 ≤ c ∧ Matched (s.chan c) ∧ Due (s.chan c).targetRound s.round))) ∧
    c < s.channels.length ∧ (s.chan c).armed = true ∧ (s.chan c).callback = cb ∧ cb ≠ 0 ∧
    (t.chan c).armed = false ∧ (t.chan c).ccie = false ∧ (t.chan c).ccifg = false ∧ (t.chan c).callback = 0 ∧
    t.eng = .waitTimer c cb

/-- 60_exceptions.md, section 5: a GPIO callback is emitted only by the dispatch of its port, for the lowest flagged pin,
where that pin is enabled, has that callback and, if debounced, last fired more than D ticks ago; the port is then masked
and its enables are saved. -/
def Obligations.GpioCallbackOnlyFromEnabledFlaggedPin : Prop :=
  ∀ (s t : State) (p : Nat) (i : Fin 8) (cb : Byte),
    step s = .next t → t.trace = .callback cb (.gpio p i) :: s.trace →
    s.nextTurn = .engine (.port p) ∧ s.enabled (.port p) = true ∧
    let q := s.port p
    Lowest q.ifg i ∧ q.ie.getLsbD i.val = true ∧ q.pins[i].cb = cb ∧ cb ≠ 0 ∧
    (q.pins[i].deb = true → s.settings.d.toNat < elapsed s.cnt q.pins[i].last ∧ (t.port p).pins[i].last = s.cnt) ∧
    (q.pins[i].deb = false → (t.port p).pins[i].last = q.pins[i].last) ∧
    (t.port p).ie = 0 ∧ (t.port p).savedIe = q.ie ∧ t.eng = .waitGpio p i cb

/-- 10_state.md R42: the state machine of a slot - UNARMED becomes ARMED by TSET of that channel alone; ARMED becomes
UNARMED by TUNSET of that channel, by TINIT, or by a service of the timer that fires the slot. -/
def Obligations.SlotStateMachine : Prop :=
  ∀ (s t : State) (c : Nat), step s = .next t →
    ((s.chan c).armed = false → (t.chan c).armed = true →
      ∃ ch cb cmp r, ch.toNat = c ∧ Issues s (.tset ch cb cmp r)) ∧
    ((s.chan c).armed = true → (t.chan c).armed = false →
      Issues s .tinit ∨ (∃ ch, ch.toNat = c ∧ Issues s (.tunset ch)) ∨
        ∃ svc, s.nextTurn = .engine svc ∧ s.enabled svc = true ∧
          (svc = .overflow ∧ c = 0 ∨ svc = .cmp0 ∧ c = 0 ∨ svc = .cmpv ∧ 1 ≤ c) ∧
          Due (s.chan c).targetRound t.round ∧
          ((s.chan c).callback ≠ 0 → t.trace = .callback (s.chan c).callback (.timer c) :: s.trace))

/-- 10_state.md, LAST: a pin's time of last fire changes only by GINIT, to 0, and by the dispatch of its port that accepts
an event of that debounced pin, to the counter. -/
def Obligations.LastFireTimeIsStampedByAcceptedEvents : Prop :=
  ∀ (s t : State) (p : Nat) (i : Fin 8), step s = .next t →
    (t.port p).pins[i].last ≠ (s.port p).pins[i].last →
    (Issues s .ginit ∧ (t.port p).pins[i].last = 0) ∨
      (s.nextTurn = .engine (.port p) ∧ s.enabled (.port p) = true ∧ (s.port p).pins[i].deb = true ∧
        Lowest (s.port p).ifg i ∧ (s.port p).ie.getLsbD i.val = true ∧
        s.settings.d.toNat < elapsed s.cnt (s.port p).pins[i].last ∧ (t.port p).pins[i].last = s.cnt)

/-- 00_scope.md, section 5: the trace only grows - by one Cmd event for a command, one Tick, one Pin; a service adds at
most one event, a callback. -/
def Obligations.TraceGrowsByTheStepsEvent : Prop :=
  ∀ s t : State, step s = .next t →
    (∀ cmd data, s.nextTurn = .host cmd data → t.trace = .cmd cmd data t.response :: s.trace) ∧
    (s.nextTurn = .tick → t.trace = .tick :: s.trace) ∧
    (∀ p v, s.nextTurn = .pin p v → s.supported p = true → t.trace = .pin p v :: s.trace) ∧
    (∀ svc, s.nextTurn = .engine svc →
      t.trace = s.trace ∨ ∃ cb src, cb ≠ 0 ∧ t.trace = .callback cb src :: s.trace)
end

