-- ==== Sys2Proof/Laws/State.lean ====
section
/-! SUPPORT. One lemma for each field under each update of the state, so that no later proof unfolds a record update. -/

namespace Sys2Proof.Machine

variable (s : State)

/-! ### respond -/

@[simp] theorem State.respond_cnt (st : Status) (v : Long) : (s.respond st v).cnt = s.cnt := rfl
@[simp] theorem State.respond_run (st : Status) (v : Long) : (s.respond st v).run = s.run := rfl
@[simp] theorem State.respond_round (st : Status) (v : Long) : (s.respond st v).round = s.round := rfl
@[simp] theorem State.respond_ovf (st : Status) (v : Long) : (s.respond st v).ovf = s.ovf := rfl
@[simp] theorem State.respond_channels (st : Status) (v : Long) : (s.respond st v).channels = s.channels := rfl
@[simp] theorem State.respond_cpend0 (st : Status) (v : Long) : (s.respond st v).cpend0 = s.cpend0 := rfl
@[simp] theorem State.respond_cpendv (st : Status) (v : Long) : (s.respond st v).cpendv = s.cpendv := rfl
@[simp] theorem State.respond_tspurCnt (st : Status) (v : Long) : (s.respond st v).tspurCnt = s.tspurCnt := rfl
@[simp] theorem State.respond_portMin (st : Status) (v : Long) : (s.respond st v).portMin = s.portMin := rfl
@[simp] theorem State.respond_ports (st : Status) (v : Long) : (s.respond st v).ports = s.ports := rfl
@[simp] theorem State.respond_ginitDone (st : Status) (v : Long) : (s.respond st v).ginitDone = s.ginitDone := rfl
@[simp] theorem State.respond_gie (st : Status) (v : Long) : (s.respond st v).gie = s.gie := rfl
@[simp] theorem State.respond_eng (st : Status) (v : Long) : (s.respond st v).eng = s.eng := rfl
@[simp] theorem State.respond_faultUninit (st : Status) (v : Long) : (s.respond st v).faultUninit = s.faultUninit := rfl
@[simp] theorem State.respond_faultOvfMissed (st : Status) (v : Long) : (s.respond st v).faultOvfMissed = s.faultOvfMissed := rfl
@[simp] theorem State.respond_flagMultibit (st : Status) (v : Long) : (s.respond st v).flagMultibit = s.flagMultibit := rfl
@[simp] theorem State.respond_settings (st : Status) (v : Long) : (s.respond st v).settings = s.settings := rfl
@[simp] theorem State.respond_response (st : Status) (v : Long) : (s.respond st v).response = { status := st, value := v } := rfl
@[simp] theorem State.respond_trace (st : Status) (v : Long) : (s.respond st v).trace = s.trace := rfl
@[simp] theorem State.respond_agenda (st : Status) (v : Long) : (s.respond st v).agenda = s.agenda := rfl
@[simp] theorem State.respond_turns (st : Status) (v : Long) : (s.respond st v).turns = s.turns := rfl
@[simp] theorem State.respond_draws (st : Status) (v : Long) : (s.respond st v).draws = s.draws := rfl

/-! ### log -/

@[simp] theorem State.log_cnt (e : Event) : (s.log e).cnt = s.cnt := rfl
@[simp] theorem State.log_run (e : Event) : (s.log e).run = s.run := rfl
@[simp] theorem State.log_round (e : Event) : (s.log e).round = s.round := rfl
@[simp] theorem State.log_ovf (e : Event) : (s.log e).ovf = s.ovf := rfl
@[simp] theorem State.log_channels (e : Event) : (s.log e).channels = s.channels := rfl
@[simp] theorem State.log_cpend0 (e : Event) : (s.log e).cpend0 = s.cpend0 := rfl
@[simp] theorem State.log_cpendv (e : Event) : (s.log e).cpendv = s.cpendv := rfl
@[simp] theorem State.log_tspurCnt (e : Event) : (s.log e).tspurCnt = s.tspurCnt := rfl
@[simp] theorem State.log_portMin (e : Event) : (s.log e).portMin = s.portMin := rfl
@[simp] theorem State.log_ports (e : Event) : (s.log e).ports = s.ports := rfl
@[simp] theorem State.log_ginitDone (e : Event) : (s.log e).ginitDone = s.ginitDone := rfl
@[simp] theorem State.log_gie (e : Event) : (s.log e).gie = s.gie := rfl
@[simp] theorem State.log_eng (e : Event) : (s.log e).eng = s.eng := rfl
@[simp] theorem State.log_faultUninit (e : Event) : (s.log e).faultUninit = s.faultUninit := rfl
@[simp] theorem State.log_faultOvfMissed (e : Event) : (s.log e).faultOvfMissed = s.faultOvfMissed := rfl
@[simp] theorem State.log_flagMultibit (e : Event) : (s.log e).flagMultibit = s.flagMultibit := rfl
@[simp] theorem State.log_settings (e : Event) : (s.log e).settings = s.settings := rfl
@[simp] theorem State.log_response (e : Event) : (s.log e).response = s.response := rfl
@[simp] theorem State.log_trace (e : Event) : (s.log e).trace = e :: s.trace := rfl
@[simp] theorem State.log_agenda (e : Event) : (s.log e).agenda = s.agenda := rfl
@[simp] theorem State.log_turns (e : Event) : (s.log e).turns = s.turns := rfl
@[simp] theorem State.log_draws (e : Event) : (s.log e).draws = s.draws := rfl

/-! ### setChan -/

@[simp] theorem State.setChan_cnt (c : Nat) (ch : Channel) : (s.setChan c ch).cnt = s.cnt := rfl
@[simp] theorem State.setChan_run (c : Nat) (ch : Channel) : (s.setChan c ch).run = s.run := rfl
@[simp] theorem State.setChan_round (c : Nat) (ch : Channel) : (s.setChan c ch).round = s.round := rfl
@[simp] theorem State.setChan_ovf (c : Nat) (ch : Channel) : (s.setChan c ch).ovf = s.ovf := rfl
@[simp] theorem State.setChan_channels (c : Nat) (ch : Channel) : (s.setChan c ch).channels = s.channels.set c ch := rfl
@[simp] theorem State.setChan_cpend0 (c : Nat) (ch : Channel) : (s.setChan c ch).cpend0 = s.cpend0 := rfl
@[simp] theorem State.setChan_cpendv (c : Nat) (ch : Channel) : (s.setChan c ch).cpendv = s.cpendv := rfl
@[simp] theorem State.setChan_tspurCnt (c : Nat) (ch : Channel) : (s.setChan c ch).tspurCnt = s.tspurCnt := rfl
@[simp] theorem State.setChan_portMin (c : Nat) (ch : Channel) : (s.setChan c ch).portMin = s.portMin := rfl
@[simp] theorem State.setChan_ports (c : Nat) (ch : Channel) : (s.setChan c ch).ports = s.ports := rfl
@[simp] theorem State.setChan_ginitDone (c : Nat) (ch : Channel) : (s.setChan c ch).ginitDone = s.ginitDone := rfl
@[simp] theorem State.setChan_gie (c : Nat) (ch : Channel) : (s.setChan c ch).gie = s.gie := rfl
@[simp] theorem State.setChan_eng (c : Nat) (ch : Channel) : (s.setChan c ch).eng = s.eng := rfl
@[simp] theorem State.setChan_faultUninit (c : Nat) (ch : Channel) : (s.setChan c ch).faultUninit = s.faultUninit := rfl
@[simp] theorem State.setChan_faultOvfMissed (c : Nat) (ch : Channel) : (s.setChan c ch).faultOvfMissed = s.faultOvfMissed := rfl
@[simp] theorem State.setChan_flagMultibit (c : Nat) (ch : Channel) : (s.setChan c ch).flagMultibit = s.flagMultibit := rfl
@[simp] theorem State.setChan_settings (c : Nat) (ch : Channel) : (s.setChan c ch).settings = s.settings := rfl
@[simp] theorem State.setChan_response (c : Nat) (ch : Channel) : (s.setChan c ch).response = s.response := rfl
@[simp] theorem State.setChan_trace (c : Nat) (ch : Channel) : (s.setChan c ch).trace = s.trace := rfl
@[simp] theorem State.setChan_agenda (c : Nat) (ch : Channel) : (s.setChan c ch).agenda = s.agenda := rfl
@[simp] theorem State.setChan_turns (c : Nat) (ch : Channel) : (s.setChan c ch).turns = s.turns := rfl
@[simp] theorem State.setChan_draws (c : Nat) (ch : Channel) : (s.setChan c ch).draws = s.draws := rfl

/-! ### modChan -/

@[simp] theorem State.modChan_cnt (c : Nat) (f : Channel → Channel) : (s.modChan c f).cnt = s.cnt := rfl
@[simp] theorem State.modChan_run (c : Nat) (f : Channel → Channel) : (s.modChan c f).run = s.run := rfl
@[simp] theorem State.modChan_round (c : Nat) (f : Channel → Channel) : (s.modChan c f).round = s.round := rfl
@[simp] theorem State.modChan_ovf (c : Nat) (f : Channel → Channel) : (s.modChan c f).ovf = s.ovf := rfl
@[simp] theorem State.modChan_channels (c : Nat) (f : Channel → Channel) : (s.modChan c f).channels = s.channels.set c (f (s.chan c)) := rfl
@[simp] theorem State.modChan_cpend0 (c : Nat) (f : Channel → Channel) : (s.modChan c f).cpend0 = s.cpend0 := rfl
@[simp] theorem State.modChan_cpendv (c : Nat) (f : Channel → Channel) : (s.modChan c f).cpendv = s.cpendv := rfl
@[simp] theorem State.modChan_tspurCnt (c : Nat) (f : Channel → Channel) : (s.modChan c f).tspurCnt = s.tspurCnt := rfl
@[simp] theorem State.modChan_portMin (c : Nat) (f : Channel → Channel) : (s.modChan c f).portMin = s.portMin := rfl
@[simp] theorem State.modChan_ports (c : Nat) (f : Channel → Channel) : (s.modChan c f).ports = s.ports := rfl
@[simp] theorem State.modChan_ginitDone (c : Nat) (f : Channel → Channel) : (s.modChan c f).ginitDone = s.ginitDone := rfl
@[simp] theorem State.modChan_gie (c : Nat) (f : Channel → Channel) : (s.modChan c f).gie = s.gie := rfl
@[simp] theorem State.modChan_eng (c : Nat) (f : Channel → Channel) : (s.modChan c f).eng = s.eng := rfl
@[simp] theorem State.modChan_faultUninit (c : Nat) (f : Channel → Channel) : (s.modChan c f).faultUninit = s.faultUninit := rfl
@[simp] theorem State.modChan_faultOvfMissed (c : Nat) (f : Channel → Channel) : (s.modChan c f).faultOvfMissed = s.faultOvfMissed := rfl
@[simp] theorem State.modChan_flagMultibit (c : Nat) (f : Channel → Channel) : (s.modChan c f).flagMultibit = s.flagMultibit := rfl
@[simp] theorem State.modChan_settings (c : Nat) (f : Channel → Channel) : (s.modChan c f).settings = s.settings := rfl
@[simp] theorem State.modChan_response (c : Nat) (f : Channel → Channel) : (s.modChan c f).response = s.response := rfl
@[simp] theorem State.modChan_trace (c : Nat) (f : Channel → Channel) : (s.modChan c f).trace = s.trace := rfl
@[simp] theorem State.modChan_agenda (c : Nat) (f : Channel → Channel) : (s.modChan c f).agenda = s.agenda := rfl
@[simp] theorem State.modChan_turns (c : Nat) (f : Channel → Channel) : (s.modChan c f).turns = s.turns := rfl
@[simp] theorem State.modChan_draws (c : Nat) (f : Channel → Channel) : (s.modChan c f).draws = s.draws := rfl

/-! ### disarm -/

@[simp] theorem State.disarm_cnt (c : Nat) : (s.disarm c).cnt = s.cnt := rfl
@[simp] theorem State.disarm_run (c : Nat) : (s.disarm c).run = s.run := rfl
@[simp] theorem State.disarm_round (c : Nat) : (s.disarm c).round = s.round := rfl
@[simp] theorem State.disarm_ovf (c : Nat) : (s.disarm c).ovf = s.ovf := rfl
@[simp] theorem State.disarm_channels (c : Nat) : (s.disarm c).channels = s.channels.set c (s.chan c).disarm := rfl
@[simp] theorem State.disarm_cpend0 (c : Nat) : (s.disarm c).cpend0 = s.cpend0 := rfl
@[simp] theorem State.disarm_cpendv (c : Nat) : (s.disarm c).cpendv = s.cpendv := rfl
@[simp] theorem State.disarm_tspurCnt (c : Nat) : (s.disarm c).tspurCnt = s.tspurCnt := rfl
@[simp] theorem State.disarm_portMin (c : Nat) : (s.disarm c).portMin = s.portMin := rfl
@[simp] theorem State.disarm_ports (c : Nat) : (s.disarm c).ports = s.ports := rfl
@[simp] theorem State.disarm_ginitDone (c : Nat) : (s.disarm c).ginitDone = s.ginitDone := rfl
@[simp] theorem State.disarm_gie (c : Nat) : (s.disarm c).gie = s.gie := rfl
@[simp] theorem State.disarm_eng (c : Nat) : (s.disarm c).eng = s.eng := rfl
@[simp] theorem State.disarm_faultUninit (c : Nat) : (s.disarm c).faultUninit = s.faultUninit := rfl
@[simp] theorem State.disarm_faultOvfMissed (c : Nat) : (s.disarm c).faultOvfMissed = s.faultOvfMissed := rfl
@[simp] theorem State.disarm_flagMultibit (c : Nat) : (s.disarm c).flagMultibit = s.flagMultibit := rfl
@[simp] theorem State.disarm_settings (c : Nat) : (s.disarm c).settings = s.settings := rfl
@[simp] theorem State.disarm_response (c : Nat) : (s.disarm c).response = s.response := rfl
@[simp] theorem State.disarm_trace (c : Nat) : (s.disarm c).trace = s.trace := rfl
@[simp] theorem State.disarm_agenda (c : Nat) : (s.disarm c).agenda = s.agenda := rfl
@[simp] theorem State.disarm_turns (c : Nat) : (s.disarm c).turns = s.turns := rfl
@[simp] theorem State.disarm_draws (c : Nat) : (s.disarm c).draws = s.draws := rfl

/-! ### setPort -/

@[simp] theorem State.setPort_cnt (p : Nat) (q : Port) : (s.setPort p q).cnt = s.cnt := rfl
@[simp] theorem State.setPort_run (p : Nat) (q : Port) : (s.setPort p q).run = s.run := rfl
@[simp] theorem State.setPort_round (p : Nat) (q : Port) : (s.setPort p q).round = s.round := rfl
@[simp] theorem State.setPort_ovf (p : Nat) (q : Port) : (s.setPort p q).ovf = s.ovf := rfl
@[simp] theorem State.setPort_channels (p : Nat) (q : Port) : (s.setPort p q).channels = s.channels := rfl
@[simp] theorem State.setPort_cpend0 (p : Nat) (q : Port) : (s.setPort p q).cpend0 = s.cpend0 := rfl
@[simp] theorem State.setPort_cpendv (p : Nat) (q : Port) : (s.setPort p q).cpendv = s.cpendv := rfl
@[simp] theorem State.setPort_tspurCnt (p : Nat) (q : Port) : (s.setPort p q).tspurCnt = s.tspurCnt := rfl
@[simp] theorem State.setPort_portMin (p : Nat) (q : Port) : (s.setPort p q).portMin = s.portMin := rfl
@[simp] theorem State.setPort_ports (p : Nat) (q : Port) : (s.setPort p q).ports = if s.supported p then s.ports.set (p - s.portMin) q else s.ports := rfl
@[simp] theorem State.setPort_ginitDone (p : Nat) (q : Port) : (s.setPort p q).ginitDone = s.ginitDone := rfl
@[simp] theorem State.setPort_gie (p : Nat) (q : Port) : (s.setPort p q).gie = s.gie := rfl
@[simp] theorem State.setPort_eng (p : Nat) (q : Port) : (s.setPort p q).eng = s.eng := rfl
@[simp] theorem State.setPort_faultUninit (p : Nat) (q : Port) : (s.setPort p q).faultUninit = s.faultUninit := rfl
@[simp] theorem State.setPort_faultOvfMissed (p : Nat) (q : Port) : (s.setPort p q).faultOvfMissed = s.faultOvfMissed := rfl
@[simp] theorem State.setPort_flagMultibit (p : Nat) (q : Port) : (s.setPort p q).flagMultibit = s.flagMultibit := rfl
@[simp] theorem State.setPort_settings (p : Nat) (q : Port) : (s.setPort p q).settings = s.settings := rfl
@[simp] theorem State.setPort_response (p : Nat) (q : Port) : (s.setPort p q).response = s.response := rfl
@[simp] theorem State.setPort_trace (p : Nat) (q : Port) : (s.setPort p q).trace = s.trace := rfl
@[simp] theorem State.setPort_agenda (p : Nat) (q : Port) : (s.setPort p q).agenda = s.agenda := rfl
@[simp] theorem State.setPort_turns (p : Nat) (q : Port) : (s.setPort p q).turns = s.turns := rfl
@[simp] theorem State.setPort_draws (p : Nat) (q : Port) : (s.setPort p q).draws = s.draws := rfl

/-! ### modPort -/

@[simp] theorem State.modPort_cnt (p : Nat) (f : Port → Port) : (s.modPort p f).cnt = s.cnt := rfl
@[simp] theorem State.modPort_run (p : Nat) (f : Port → Port) : (s.modPort p f).run = s.run := rfl
@[simp] theorem State.modPort_round (p : Nat) (f : Port → Port) : (s.modPort p f).round = s.round := rfl
@[simp] theorem State.modPort_ovf (p : Nat) (f : Port → Port) : (s.modPort p f).ovf = s.ovf := rfl
@[simp] theorem State.modPort_channels (p : Nat) (f : Port → Port) : (s.modPort p f).channels = s.channels := rfl
@[simp] theorem State.modPort_cpend0 (p : Nat) (f : Port → Port) : (s.modPort p f).cpend0 = s.cpend0 := rfl
@[simp] theorem State.modPort_cpendv (p : Nat) (f : Port → Port) : (s.modPort p f).cpendv = s.cpendv := rfl
@[simp] theorem State.modPort_tspurCnt (p : Nat) (f : Port → Port) : (s.modPort p f).tspurCnt = s.tspurCnt := rfl
@[simp] theorem State.modPort_portMin (p : Nat) (f : Port → Port) : (s.modPort p f).portMin = s.portMin := rfl
@[simp] theorem State.modPort_ports (p : Nat) (f : Port → Port) : (s.modPort p f).ports = if s.supported p then s.ports.set (p - s.portMin) (f (s.port p)) else s.ports := rfl
@[simp] theorem State.modPort_ginitDone (p : Nat) (f : Port → Port) : (s.modPort p f).ginitDone = s.ginitDone := rfl
@[simp] theorem State.modPort_gie (p : Nat) (f : Port → Port) : (s.modPort p f).gie = s.gie := rfl
@[simp] theorem State.modPort_eng (p : Nat) (f : Port → Port) : (s.modPort p f).eng = s.eng := rfl
@[simp] theorem State.modPort_faultUninit (p : Nat) (f : Port → Port) : (s.modPort p f).faultUninit = s.faultUninit := rfl
@[simp] theorem State.modPort_faultOvfMissed (p : Nat) (f : Port → Port) : (s.modPort p f).faultOvfMissed = s.faultOvfMissed := rfl
@[simp] theorem State.modPort_flagMultibit (p : Nat) (f : Port → Port) : (s.modPort p f).flagMultibit = s.flagMultibit := rfl
@[simp] theorem State.modPort_settings (p : Nat) (f : Port → Port) : (s.modPort p f).settings = s.settings := rfl
@[simp] theorem State.modPort_response (p : Nat) (f : Port → Port) : (s.modPort p f).response = s.response := rfl
@[simp] theorem State.modPort_trace (p : Nat) (f : Port → Port) : (s.modPort p f).trace = s.trace := rfl
@[simp] theorem State.modPort_agenda (p : Nat) (f : Port → Port) : (s.modPort p f).agenda = s.agenda := rfl
@[simp] theorem State.modPort_turns (p : Nat) (f : Port → Port) : (s.modPort p f).turns = s.turns := rfl
@[simp] theorem State.modPort_draws (p : Nat) (f : Port → Port) : (s.modPort p f).draws = s.draws := rfl

/-! ### ieWrite -/

@[simp] theorem State.ieWrite_cnt (p : Nat) (v : Byte) : (s.ieWrite p v).cnt = s.cnt := rfl
@[simp] theorem State.ieWrite_run (p : Nat) (v : Byte) : (s.ieWrite p v).run = s.run := rfl
@[simp] theorem State.ieWrite_round (p : Nat) (v : Byte) : (s.ieWrite p v).round = s.round := rfl
@[simp] theorem State.ieWrite_ovf (p : Nat) (v : Byte) : (s.ieWrite p v).ovf = s.ovf := rfl
@[simp] theorem State.ieWrite_channels (p : Nat) (v : Byte) : (s.ieWrite p v).channels = s.channels := rfl
@[simp] theorem State.ieWrite_cpend0 (p : Nat) (v : Byte) : (s.ieWrite p v).cpend0 = s.cpend0 := rfl
@[simp] theorem State.ieWrite_cpendv (p : Nat) (v : Byte) : (s.ieWrite p v).cpendv = s.cpendv := rfl
@[simp] theorem State.ieWrite_tspurCnt (p : Nat) (v : Byte) : (s.ieWrite p v).tspurCnt = s.tspurCnt := rfl
@[simp] theorem State.ieWrite_portMin (p : Nat) (v : Byte) : (s.ieWrite p v).portMin = s.portMin := rfl
@[simp] theorem State.ieWrite_ginitDone (p : Nat) (v : Byte) : (s.ieWrite p v).ginitDone = s.ginitDone := rfl
@[simp] theorem State.ieWrite_gie (p : Nat) (v : Byte) : (s.ieWrite p v).gie = s.gie := rfl
@[simp] theorem State.ieWrite_eng (p : Nat) (v : Byte) : (s.ieWrite p v).eng = s.eng := rfl
@[simp] theorem State.ieWrite_faultUninit (p : Nat) (v : Byte) : (s.ieWrite p v).faultUninit = s.faultUninit := rfl
@[simp] theorem State.ieWrite_faultOvfMissed (p : Nat) (v : Byte) : (s.ieWrite p v).faultOvfMissed = s.faultOvfMissed := rfl
@[simp] theorem State.ieWrite_flagMultibit (p : Nat) (v : Byte) : (s.ieWrite p v).flagMultibit = s.flagMultibit := rfl
@[simp] theorem State.ieWrite_settings (p : Nat) (v : Byte) : (s.ieWrite p v).settings = s.settings := rfl
@[simp] theorem State.ieWrite_response (p : Nat) (v : Byte) : (s.ieWrite p v).response = s.response := rfl
@[simp] theorem State.ieWrite_trace (p : Nat) (v : Byte) : (s.ieWrite p v).trace = s.trace := rfl
@[simp] theorem State.ieWrite_agenda (p : Nat) (v : Byte) : (s.ieWrite p v).agenda = s.agenda := rfl
@[simp] theorem State.ieWrite_turns (p : Nat) (v : Byte) : (s.ieWrite p v).turns = s.turns := rfl
@[simp] theorem State.ieWrite_draws (p : Nat) (v : Byte) : (s.ieWrite p v).draws = s.draws := rfl

/-! ### spurious -/

@[simp] theorem State.spurious_cnt (p : Nat) : (s.spurious p).cnt = s.cnt := rfl
@[simp] theorem State.spurious_run (p : Nat) : (s.spurious p).run = s.run := rfl
@[simp] theorem State.spurious_round (p : Nat) : (s.spurious p).round = s.round := rfl
@[simp] theorem State.spurious_ovf (p : Nat) : (s.spurious p).ovf = s.ovf := rfl
@[simp] theorem State.spurious_channels (p : Nat) : (s.spurious p).channels = s.channels := rfl
@[simp] theorem State.spurious_cpend0 (p : Nat) : (s.spurious p).cpend0 = s.cpend0 := rfl
@[simp] theorem State.spurious_cpendv (p : Nat) : (s.spurious p).cpendv = s.cpendv := rfl
@[simp] theorem State.spurious_tspurCnt (p : Nat) : (s.spurious p).tspurCnt = s.tspurCnt := rfl
@[simp] theorem State.spurious_portMin (p : Nat) : (s.spurious p).portMin = s.portMin := rfl
@[simp] theorem State.spurious_ginitDone (p : Nat) : (s.spurious p).ginitDone = s.ginitDone := rfl
@[simp] theorem State.spurious_gie (p : Nat) : (s.spurious p).gie = s.gie := rfl
@[simp] theorem State.spurious_eng (p : Nat) : (s.spurious p).eng = s.eng := rfl
@[simp] theorem State.spurious_faultUninit (p : Nat) : (s.spurious p).faultUninit = s.faultUninit := rfl
@[simp] theorem State.spurious_faultOvfMissed (p : Nat) : (s.spurious p).faultOvfMissed = s.faultOvfMissed := rfl
@[simp] theorem State.spurious_flagMultibit (p : Nat) : (s.spurious p).flagMultibit = s.flagMultibit := rfl
@[simp] theorem State.spurious_settings (p : Nat) : (s.spurious p).settings = s.settings := rfl
@[simp] theorem State.spurious_response (p : Nat) : (s.spurious p).response = s.response := rfl
@[simp] theorem State.spurious_trace (p : Nat) : (s.spurious p).trace = s.trace := rfl
@[simp] theorem State.spurious_agenda (p : Nat) : (s.spurious p).agenda = s.agenda := rfl
@[simp] theorem State.spurious_turns (p : Nat) : (s.spurious p).turns = s.turns := rfl
@[simp] theorem State.spurious_draws (p : Nat) : (s.spurious p).draws = if s.settings.spuriousIfgOnWrite then s.draws + 1 else s.draws := rfl

/-! ### countTimerSpurious -/

@[simp] theorem State.countTimerSpurious_cnt : (s.countTimerSpurious).cnt = s.cnt := rfl
@[simp] theorem State.countTimerSpurious_run : (s.countTimerSpurious).run = s.run := rfl
@[simp] theorem State.countTimerSpurious_round : (s.countTimerSpurious).round = s.round := rfl
@[simp] theorem State.countTimerSpurious_ovf : (s.countTimerSpurious).ovf = s.ovf := rfl
@[simp] theorem State.countTimerSpurious_channels : (s.countTimerSpurious).channels = s.channels := rfl
@[simp] theorem State.countTimerSpurious_cpend0 : (s.countTimerSpurious).cpend0 = s.cpend0 := rfl
@[simp] theorem State.countTimerSpurious_cpendv : (s.countTimerSpurious).cpendv = s.cpendv := rfl
@[simp] theorem State.countTimerSpurious_tspurCnt : (s.countTimerSpurious).tspurCnt = s.tspurCnt + 1 := rfl
@[simp] theorem State.countTimerSpurious_portMin : (s.countTimerSpurious).portMin = s.portMin := rfl
@[simp] theorem State.countTimerSpurious_ports : (s.countTimerSpurious).ports = s.ports := rfl
@[simp] theorem State.countTimerSpurious_ginitDone : (s.countTimerSpurious).ginitDone = s.ginitDone := rfl
@[simp] theorem State.countTimerSpurious_gie : (s.countTimerSpurious).gie = s.gie := rfl
@[simp] theorem State.countTimerSpurious_eng : (s.countTimerSpurious).eng = s.eng := rfl
@[simp] theorem State.countTimerSpurious_faultUninit : (s.countTimerSpurious).faultUninit = s.faultUninit := rfl
@[simp] theorem State.countTimerSpurious_faultOvfMissed : (s.countTimerSpurious).faultOvfMissed = s.faultOvfMissed := rfl
@[simp] theorem State.countTimerSpurious_flagMultibit : (s.countTimerSpurious).flagMultibit = s.flagMultibit := rfl
@[simp] theorem State.countTimerSpurious_settings : (s.countTimerSpurious).settings = s.settings := rfl
@[simp] theorem State.countTimerSpurious_response : (s.countTimerSpurious).response = s.response := rfl
@[simp] theorem State.countTimerSpurious_trace : (s.countTimerSpurious).trace = s.trace := rfl
@[simp] theorem State.countTimerSpurious_agenda : (s.countTimerSpurious).agenda = s.agenda := rfl
@[simp] theorem State.countTimerSpurious_turns : (s.countTimerSpurious).turns = s.turns := rfl
@[simp] theorem State.countTimerSpurious_draws : (s.countTimerSpurious).draws = s.draws := rfl

/-! ### enterCallback -/

@[simp] theorem State.enterCallback_cnt (cb : Byte) (src : Source) (e : Eng) : (s.enterCallback cb src e).cnt = s.cnt := rfl
@[simp] theorem State.enterCallback_run (cb : Byte) (src : Source) (e : Eng) : (s.enterCallback cb src e).run = s.run := rfl
@[simp] theorem State.enterCallback_round (cb : Byte) (src : Source) (e : Eng) : (s.enterCallback cb src e).round = s.round := rfl
@[simp] theorem State.enterCallback_ovf (cb : Byte) (src : Source) (e : Eng) : (s.enterCallback cb src e).ovf = s.ovf := rfl
@[simp] theorem State.enterCallback_channels (cb : Byte) (src : Source) (e : Eng) : (s.enterCallback cb src e).channels = s.channels := rfl
@[simp] theorem State.enterCallback_cpend0 (cb : Byte) (src : Source) (e : Eng) : (s.enterCallback cb src e).cpend0 = s.cpend0 := rfl
@[simp] theorem State.enterCallback_cpendv (cb : Byte) (src : Source) (e : Eng) : (s.enterCallback cb src e).cpendv = s.cpendv := rfl
@[simp] theorem State.enterCallback_tspurCnt (cb : Byte) (src : Source) (e : Eng) : (s.enterCallback cb src e).tspurCnt = s.tspurCnt := rfl
@[simp] theorem State.enterCallback_portMin (cb : Byte) (src : Source) (e : Eng) : (s.enterCallback cb src e).portMin = s.portMin := rfl
@[simp] theorem State.enterCallback_ports (cb : Byte) (src : Source) (e : Eng) : (s.enterCallback cb src e).ports = s.ports := rfl
@[simp] theorem State.enterCallback_ginitDone (cb : Byte) (src : Source) (e : Eng) : (s.enterCallback cb src e).ginitDone = s.ginitDone := rfl
@[simp] theorem State.enterCallback_gie (cb : Byte) (src : Source) (e : Eng) : (s.enterCallback cb src e).gie = s.gie := rfl
@[simp] theorem State.enterCallback_eng (cb : Byte) (src : Source) (e : Eng) : (s.enterCallback cb src e).eng = e := rfl
@[simp] theorem State.enterCallback_faultUninit (cb : Byte) (src : Source) (e : Eng) : (s.enterCallback cb src e).faultUninit = s.faultUninit := rfl
@[simp] theorem State.enterCallback_faultOvfMissed (cb : Byte) (src : Source) (e : Eng) : (s.enterCallback cb src e).faultOvfMissed = s.faultOvfMissed := rfl
@[simp] theorem State.enterCallback_flagMultibit (cb : Byte) (src : Source) (e : Eng) : (s.enterCallback cb src e).flagMultibit = s.flagMultibit := rfl
@[simp] theorem State.enterCallback_settings (cb : Byte) (src : Source) (e : Eng) : (s.enterCallback cb src e).settings = s.settings := rfl
@[simp] theorem State.enterCallback_response (cb : Byte) (src : Source) (e : Eng) : (s.enterCallback cb src e).response = s.response := rfl
@[simp] theorem State.enterCallback_trace (cb : Byte) (src : Source) (e : Eng) : (s.enterCallback cb src e).trace = .callback cb src :: s.trace := rfl
@[simp] theorem State.enterCallback_agenda (cb : Byte) (src : Source) (e : Eng) : (s.enterCallback cb src e).agenda = s.agenda := rfl
@[simp] theorem State.enterCallback_turns (cb : Byte) (src : Source) (e : Eng) : (s.enterCallback cb src e).turns = s.turns := rfl
@[simp] theorem State.enterCallback_draws (cb : Byte) (src : Source) (e : Eng) : (s.enterCallback cb src e).draws = s.draws := rfl

/-! ### dispatchFinish -/

@[simp] theorem State.dispatchFinish_cnt (p : Nat) : (s.dispatchFinish p).cnt = s.cnt := rfl
@[simp] theorem State.dispatchFinish_run (p : Nat) : (s.dispatchFinish p).run = s.run := rfl
@[simp] theorem State.dispatchFinish_round (p : Nat) : (s.dispatchFinish p).round = s.round := rfl
@[simp] theorem State.dispatchFinish_ovf (p : Nat) : (s.dispatchFinish p).ovf = s.ovf := rfl
@[simp] theorem State.dispatchFinish_channels (p : Nat) : (s.dispatchFinish p).channels = s.channels := rfl
@[simp] theorem State.dispatchFinish_cpend0 (p : Nat) : (s.dispatchFinish p).cpend0 = s.cpend0 := rfl
@[simp] theorem State.dispatchFinish_cpendv (p : Nat) : (s.dispatchFinish p).cpendv = s.cpendv := rfl
@[simp] theorem State.dispatchFinish_tspurCnt (p : Nat) : (s.dispatchFinish p).tspurCnt = s.tspurCnt := rfl
@[simp] theorem State.dispatchFinish_portMin (p : Nat) : (s.dispatchFinish p).portMin = s.portMin := rfl
@[simp] theorem State.dispatchFinish_ginitDone (p : Nat) : (s.dispatchFinish p).ginitDone = s.ginitDone := rfl
@[simp] theorem State.dispatchFinish_gie (p : Nat) : (s.dispatchFinish p).gie = s.gie := rfl
@[simp] theorem State.dispatchFinish_eng (p : Nat) : (s.dispatchFinish p).eng = .idle := rfl
@[simp] theorem State.dispatchFinish_faultUninit (p : Nat) : (s.dispatchFinish p).faultUninit = s.faultUninit := rfl
@[simp] theorem State.dispatchFinish_faultOvfMissed (p : Nat) : (s.dispatchFinish p).faultOvfMissed = s.faultOvfMissed := rfl
@[simp] theorem State.dispatchFinish_flagMultibit (p : Nat) : (s.dispatchFinish p).flagMultibit = s.flagMultibit := rfl
@[simp] theorem State.dispatchFinish_settings (p : Nat) : (s.dispatchFinish p).settings = s.settings := rfl
@[simp] theorem State.dispatchFinish_response (p : Nat) : (s.dispatchFinish p).response = s.response := rfl
@[simp] theorem State.dispatchFinish_trace (p : Nat) : (s.dispatchFinish p).trace = s.trace := rfl
@[simp] theorem State.dispatchFinish_agenda (p : Nat) : (s.dispatchFinish p).agenda = s.agenda := rfl
@[simp] theorem State.dispatchFinish_turns (p : Nat) : (s.dispatchFinish p).turns = s.turns := rfl
@[simp] theorem State.dispatchFinish_draws (p : Nat) : (s.dispatchFinish p).draws = s.draws := rfl

/-! ### setEng -/

@[simp] theorem State.setEng_cnt (e : Eng) : (s.setEng e).cnt = s.cnt := rfl
@[simp] theorem State.setEng_run (e : Eng) : (s.setEng e).run = s.run := rfl
@[simp] theorem State.setEng_round (e : Eng) : (s.setEng e).round = s.round := rfl
@[simp] theorem State.setEng_ovf (e : Eng) : (s.setEng e).ovf = s.ovf := rfl
@[simp] theorem State.setEng_channels (e : Eng) : (s.setEng e).channels = s.channels := rfl
@[simp] theorem State.setEng_cpend0 (e : Eng) : (s.setEng e).cpend0 = s.cpend0 := rfl
@[simp] theorem State.setEng_cpendv (e : Eng) : (s.setEng e).cpendv = s.cpendv := rfl
@[simp] theorem State.setEng_tspurCnt (e : Eng) : (s.setEng e).tspurCnt = s.tspurCnt := rfl
@[simp] theorem State.setEng_portMin (e : Eng) : (s.setEng e).portMin = s.portMin := rfl
@[simp] theorem State.setEng_ports (e : Eng) : (s.setEng e).ports = s.ports := rfl
@[simp] theorem State.setEng_ginitDone (e : Eng) : (s.setEng e).ginitDone = s.ginitDone := rfl
@[simp] theorem State.setEng_gie (e : Eng) : (s.setEng e).gie = s.gie := rfl
@[simp] theorem State.setEng_eng (e : Eng) : (s.setEng e).eng = e := rfl
@[simp] theorem State.setEng_faultUninit (e : Eng) : (s.setEng e).faultUninit = s.faultUninit := rfl
@[simp] theorem State.setEng_faultOvfMissed (e : Eng) : (s.setEng e).faultOvfMissed = s.faultOvfMissed := rfl
@[simp] theorem State.setEng_flagMultibit (e : Eng) : (s.setEng e).flagMultibit = s.flagMultibit := rfl
@[simp] theorem State.setEng_settings (e : Eng) : (s.setEng e).settings = s.settings := rfl
@[simp] theorem State.setEng_response (e : Eng) : (s.setEng e).response = s.response := rfl
@[simp] theorem State.setEng_trace (e : Eng) : (s.setEng e).trace = s.trace := rfl
@[simp] theorem State.setEng_agenda (e : Eng) : (s.setEng e).agenda = s.agenda := rfl
@[simp] theorem State.setEng_turns (e : Eng) : (s.setEng e).turns = s.turns := rfl
@[simp] theorem State.setEng_draws (e : Eng) : (s.setEng e).draws = s.draws := rfl

/-! ### countDraw -/

@[simp] theorem State.countDraw_cnt : (s.countDraw).cnt = s.cnt := rfl
@[simp] theorem State.countDraw_run : (s.countDraw).run = s.run := rfl
@[simp] theorem State.countDraw_round : (s.countDraw).round = s.round := rfl
@[simp] theorem State.countDraw_ovf : (s.countDraw).ovf = s.ovf := rfl
@[simp] theorem State.countDraw_channels : (s.countDraw).channels = s.channels := rfl
@[simp] theorem State.countDraw_cpend0 : (s.countDraw).cpend0 = s.cpend0 := rfl
@[simp] theorem State.countDraw_cpendv : (s.countDraw).cpendv = s.cpendv := rfl
@[simp] theorem State.countDraw_tspurCnt : (s.countDraw).tspurCnt = s.tspurCnt := rfl
@[simp] theorem State.countDraw_portMin : (s.countDraw).portMin = s.portMin := rfl
@[simp] theorem State.countDraw_ports : (s.countDraw).ports = s.ports := rfl
@[simp] theorem State.countDraw_ginitDone : (s.countDraw).ginitDone = s.ginitDone := rfl
@[simp] theorem State.countDraw_gie : (s.countDraw).gie = s.gie := rfl
@[simp] theorem State.countDraw_eng : (s.countDraw).eng = s.eng := rfl
@[simp] theorem State.countDraw_faultUninit : (s.countDraw).faultUninit = s.faultUninit := rfl
@[simp] theorem State.countDraw_faultOvfMissed : (s.countDraw).faultOvfMissed = s.faultOvfMissed := rfl
@[simp] theorem State.countDraw_flagMultibit : (s.countDraw).flagMultibit = s.flagMultibit := rfl
@[simp] theorem State.countDraw_settings : (s.countDraw).settings = s.settings := rfl
@[simp] theorem State.countDraw_response : (s.countDraw).response = s.response := rfl
@[simp] theorem State.countDraw_trace : (s.countDraw).trace = s.trace := rfl
@[simp] theorem State.countDraw_agenda : (s.countDraw).agenda = s.agenda := rfl
@[simp] theorem State.countDraw_turns : (s.countDraw).turns = s.turns := rfl
@[simp] theorem State.countDraw_draws : (s.countDraw).draws = if s.settings.spuriousIfgOnWrite then s.draws + 1 else s.draws := rfl

/-! ### noteMask -/

@[simp] theorem State.noteMask_cnt (m : Byte) : (s.noteMask m).cnt = s.cnt := rfl
@[simp] theorem State.noteMask_run (m : Byte) : (s.noteMask m).run = s.run := rfl
@[simp] theorem State.noteMask_round (m : Byte) : (s.noteMask m).round = s.round := rfl
@[simp] theorem State.noteMask_ovf (m : Byte) : (s.noteMask m).ovf = s.ovf := rfl
@[simp] theorem State.noteMask_channels (m : Byte) : (s.noteMask m).channels = s.channels := rfl
@[simp] theorem State.noteMask_cpend0 (m : Byte) : (s.noteMask m).cpend0 = s.cpend0 := rfl
@[simp] theorem State.noteMask_cpendv (m : Byte) : (s.noteMask m).cpendv = s.cpendv := rfl
@[simp] theorem State.noteMask_tspurCnt (m : Byte) : (s.noteMask m).tspurCnt = s.tspurCnt := rfl
@[simp] theorem State.noteMask_portMin (m : Byte) : (s.noteMask m).portMin = s.portMin := rfl
@[simp] theorem State.noteMask_ports (m : Byte) : (s.noteMask m).ports = s.ports := rfl
@[simp] theorem State.noteMask_ginitDone (m : Byte) : (s.noteMask m).ginitDone = s.ginitDone := rfl
@[simp] theorem State.noteMask_gie (m : Byte) : (s.noteMask m).gie = s.gie := rfl
@[simp] theorem State.noteMask_eng (m : Byte) : (s.noteMask m).eng = s.eng := rfl
@[simp] theorem State.noteMask_faultUninit (m : Byte) : (s.noteMask m).faultUninit = s.faultUninit := rfl
@[simp] theorem State.noteMask_faultOvfMissed (m : Byte) : (s.noteMask m).faultOvfMissed = s.faultOvfMissed := rfl
@[simp] theorem State.noteMask_flagMultibit (m : Byte) : (s.noteMask m).flagMultibit = (s.flagMultibit || decide (1 < popcount m)) := rfl
@[simp] theorem State.noteMask_settings (m : Byte) : (s.noteMask m).settings = s.settings := rfl
@[simp] theorem State.noteMask_response (m : Byte) : (s.noteMask m).response = s.response := rfl
@[simp] theorem State.noteMask_trace (m : Byte) : (s.noteMask m).trace = s.trace := rfl
@[simp] theorem State.noteMask_agenda (m : Byte) : (s.noteMask m).agenda = s.agenda := rfl
@[simp] theorem State.noteMask_turns (m : Byte) : (s.noteMask m).turns = s.turns := rfl
@[simp] theorem State.noteMask_draws (m : Byte) : (s.noteMask m).draws = s.draws := rfl

/-! ### gsetConfigure -/

@[simp] theorem State.gsetConfigure_cnt (p : Nat) (m : Byte) (fl : GpioFlags) (cb : Byte) : (s.gsetConfigure p m fl cb).cnt = s.cnt := rfl
@[simp] theorem State.gsetConfigure_run (p : Nat) (m : Byte) (fl : GpioFlags) (cb : Byte) : (s.gsetConfigure p m fl cb).run = s.run := rfl
@[simp] theorem State.gsetConfigure_round (p : Nat) (m : Byte) (fl : GpioFlags) (cb : Byte) : (s.gsetConfigure p m fl cb).round = s.round := rfl
@[simp] theorem State.gsetConfigure_ovf (p : Nat) (m : Byte) (fl : GpioFlags) (cb : Byte) : (s.gsetConfigure p m fl cb).ovf = s.ovf := rfl
@[simp] theorem State.gsetConfigure_channels (p : Nat) (m : Byte) (fl : GpioFlags) (cb : Byte) : (s.gsetConfigure p m fl cb).channels = s.channels := rfl
@[simp] theorem State.gsetConfigure_cpend0 (p : Nat) (m : Byte) (fl : GpioFlags) (cb : Byte) : (s.gsetConfigure p m fl cb).cpend0 = s.cpend0 := rfl
@[simp] theorem State.gsetConfigure_cpendv (p : Nat) (m : Byte) (fl : GpioFlags) (cb : Byte) : (s.gsetConfigure p m fl cb).cpendv = s.cpendv := rfl
@[simp] theorem State.gsetConfigure_tspurCnt (p : Nat) (m : Byte) (fl : GpioFlags) (cb : Byte) : (s.gsetConfigure p m fl cb).tspurCnt = s.tspurCnt := rfl
@[simp] theorem State.gsetConfigure_portMin (p : Nat) (m : Byte) (fl : GpioFlags) (cb : Byte) : (s.gsetConfigure p m fl cb).portMin = s.portMin := rfl
@[simp] theorem State.gsetConfigure_ginitDone (p : Nat) (m : Byte) (fl : GpioFlags) (cb : Byte) : (s.gsetConfigure p m fl cb).ginitDone = s.ginitDone := rfl
@[simp] theorem State.gsetConfigure_gie (p : Nat) (m : Byte) (fl : GpioFlags) (cb : Byte) : (s.gsetConfigure p m fl cb).gie = s.gie := rfl
@[simp] theorem State.gsetConfigure_eng (p : Nat) (m : Byte) (fl : GpioFlags) (cb : Byte) : (s.gsetConfigure p m fl cb).eng = s.eng := rfl
@[simp] theorem State.gsetConfigure_faultUninit (p : Nat) (m : Byte) (fl : GpioFlags) (cb : Byte) : (s.gsetConfigure p m fl cb).faultUninit = s.faultUninit := rfl
@[simp] theorem State.gsetConfigure_faultOvfMissed (p : Nat) (m : Byte) (fl : GpioFlags) (cb : Byte) : (s.gsetConfigure p m fl cb).faultOvfMissed = s.faultOvfMissed := rfl
@[simp] theorem State.gsetConfigure_flagMultibit (p : Nat) (m : Byte) (fl : GpioFlags) (cb : Byte) : (s.gsetConfigure p m fl cb).flagMultibit = (s.flagMultibit || decide (1 < popcount m)) := rfl
@[simp] theorem State.gsetConfigure_settings (p : Nat) (m : Byte) (fl : GpioFlags) (cb : Byte) : (s.gsetConfigure p m fl cb).settings = s.settings := rfl
@[simp] theorem State.gsetConfigure_response (p : Nat) (m : Byte) (fl : GpioFlags) (cb : Byte) : (s.gsetConfigure p m fl cb).response = s.response := rfl
@[simp] theorem State.gsetConfigure_trace (p : Nat) (m : Byte) (fl : GpioFlags) (cb : Byte) : (s.gsetConfigure p m fl cb).trace = s.trace := rfl
@[simp] theorem State.gsetConfigure_agenda (p : Nat) (m : Byte) (fl : GpioFlags) (cb : Byte) : (s.gsetConfigure p m fl cb).agenda = s.agenda := rfl
@[simp] theorem State.gsetConfigure_turns (p : Nat) (m : Byte) (fl : GpioFlags) (cb : Byte) : (s.gsetConfigure p m fl cb).turns = s.turns := rfl
@[simp] theorem State.gsetConfigure_draws (p : Nat) (m : Byte) (fl : GpioFlags) (cb : Byte) : (s.gsetConfigure p m fl cb).draws = if s.settings.spuriousIfgOnWrite then s.draws + 1 else s.draws := rfl

/-! ### popTurn -/

@[simp] theorem State.popTurn_cnt : (s.popTurn).cnt = s.cnt := rfl
@[simp] theorem State.popTurn_run : (s.popTurn).run = s.run := rfl
@[simp] theorem State.popTurn_round : (s.popTurn).round = s.round := rfl
@[simp] theorem State.popTurn_ovf : (s.popTurn).ovf = s.ovf := rfl
@[simp] theorem State.popTurn_channels : (s.popTurn).channels = s.channels := rfl
@[simp] theorem State.popTurn_cpend0 : (s.popTurn).cpend0 = s.cpend0 := rfl
@[simp] theorem State.popTurn_cpendv : (s.popTurn).cpendv = s.cpendv := rfl
@[simp] theorem State.popTurn_tspurCnt : (s.popTurn).tspurCnt = s.tspurCnt := rfl
@[simp] theorem State.popTurn_portMin : (s.popTurn).portMin = s.portMin := rfl
@[simp] theorem State.popTurn_ports : (s.popTurn).ports = s.ports := rfl
@[simp] theorem State.popTurn_ginitDone : (s.popTurn).ginitDone = s.ginitDone := rfl
@[simp] theorem State.popTurn_gie : (s.popTurn).gie = s.gie := rfl
@[simp] theorem State.popTurn_eng : (s.popTurn).eng = s.eng := rfl
@[simp] theorem State.popTurn_faultUninit : (s.popTurn).faultUninit = s.faultUninit := rfl
@[simp] theorem State.popTurn_faultOvfMissed : (s.popTurn).faultOvfMissed = s.faultOvfMissed := rfl
@[simp] theorem State.popTurn_flagMultibit : (s.popTurn).flagMultibit = s.flagMultibit := rfl
@[simp] theorem State.popTurn_settings : (s.popTurn).settings = s.settings := rfl
@[simp] theorem State.popTurn_response : (s.popTurn).response = s.response := rfl
@[simp] theorem State.popTurn_trace : (s.popTurn).trace = s.trace := rfl
@[simp] theorem State.popTurn_agenda : (s.popTurn).agenda = s.agenda.tail := rfl
@[simp] theorem State.popTurn_turns : (s.popTurn).turns = s.turns + 1 := rfl
@[simp] theorem State.popTurn_draws : (s.popTurn).draws = s.draws := rfl

/-! ### updateLatches -/

@[simp] theorem State.updateLatches_cnt : (s.updateLatches).cnt = s.cnt := rfl
@[simp] theorem State.updateLatches_run : (s.updateLatches).run = s.run := rfl
@[simp] theorem State.updateLatches_round : (s.updateLatches).round = s.round := rfl
@[simp] theorem State.updateLatches_ovf : (s.updateLatches).ovf = s.ovf := rfl
@[simp] theorem State.updateLatches_channels : (s.updateLatches).channels = s.channels := rfl
@[simp] theorem State.updateLatches_cpend0 : (s.updateLatches).cpend0 = (s.cpend0 || (s.chan 0).request) := rfl
@[simp] theorem State.updateLatches_cpendv : (s.updateLatches).cpendv = (s.cpendv || s.channels.tail.any Channel.request) := rfl
@[simp] theorem State.updateLatches_tspurCnt : (s.updateLatches).tspurCnt = s.tspurCnt := rfl
@[simp] theorem State.updateLatches_portMin : (s.updateLatches).portMin = s.portMin := rfl
@[simp] theorem State.updateLatches_ports : (s.updateLatches).ports = s.ports.map Port.latch := rfl
@[simp] theorem State.updateLatches_ginitDone : (s.updateLatches).ginitDone = s.ginitDone := rfl
@[simp] theorem State.updateLatches_gie : (s.updateLatches).gie = s.gie := rfl
@[simp] theorem State.updateLatches_eng : (s.updateLatches).eng = s.eng := rfl
@[simp] theorem State.updateLatches_faultUninit : (s.updateLatches).faultUninit = s.faultUninit := rfl
@[simp] theorem State.updateLatches_faultOvfMissed : (s.updateLatches).faultOvfMissed = s.faultOvfMissed := rfl
@[simp] theorem State.updateLatches_flagMultibit : (s.updateLatches).flagMultibit = s.flagMultibit := rfl
@[simp] theorem State.updateLatches_settings : (s.updateLatches).settings = s.settings := rfl
@[simp] theorem State.updateLatches_response : (s.updateLatches).response = s.response := rfl
@[simp] theorem State.updateLatches_trace : (s.updateLatches).trace = s.trace := rfl
@[simp] theorem State.updateLatches_agenda : (s.updateLatches).agenda = s.agenda := rfl
@[simp] theorem State.updateLatches_turns : (s.updateLatches).turns = s.turns := rfl
@[simp] theorem State.updateLatches_draws : (s.updateLatches).draws = s.draws := rfl

/-! ### illegal -/

@[simp] theorem State.illegal_cnt : (s.illegal).cnt = s.cnt := rfl
@[simp] theorem State.illegal_run : (s.illegal).run = s.run := rfl
@[simp] theorem State.illegal_round : (s.illegal).round = s.round := rfl
@[simp] theorem State.illegal_ovf : (s.illegal).ovf = s.ovf := rfl
@[simp] theorem State.illegal_channels : (s.illegal).channels = s.channels := rfl
@[simp] theorem State.illegal_cpend0 : (s.illegal).cpend0 = s.cpend0 := rfl
@[simp] theorem State.illegal_cpendv : (s.illegal).cpendv = s.cpendv := rfl
@[simp] theorem State.illegal_tspurCnt : (s.illegal).tspurCnt = s.tspurCnt := rfl
@[simp] theorem State.illegal_portMin : (s.illegal).portMin = s.portMin := rfl
@[simp] theorem State.illegal_ports : (s.illegal).ports = s.ports := rfl
@[simp] theorem State.illegal_ginitDone : (s.illegal).ginitDone = s.ginitDone := rfl
@[simp] theorem State.illegal_gie : (s.illegal).gie = s.gie := rfl
@[simp] theorem State.illegal_eng : (s.illegal).eng = s.eng := rfl
@[simp] theorem State.illegal_faultUninit : (s.illegal).faultUninit = s.faultUninit := rfl
@[simp] theorem State.illegal_faultOvfMissed : (s.illegal).faultOvfMissed = s.faultOvfMissed := rfl
@[simp] theorem State.illegal_flagMultibit : (s.illegal).flagMultibit = s.flagMultibit := rfl
@[simp] theorem State.illegal_settings : (s.illegal).settings = s.settings := rfl
@[simp] theorem State.illegal_response : (s.illegal).response = { status := .illegalCommand, value := 0 } := rfl
@[simp] theorem State.illegal_trace : (s.illegal).trace = s.trace := rfl
@[simp] theorem State.illegal_agenda : (s.illegal).agenda = s.agenda := rfl
@[simp] theorem State.illegal_turns : (s.illegal).turns = s.turns := rfl
@[simp] theorem State.illegal_draws : (s.illegal).draws = s.draws := rfl

/-! ### withFetchWord -/

@[simp] theorem State.withFetchWord_cnt (nbits w : Nat) : (s.withFetchWord nbits w).cnt = s.cnt := rfl
@[simp] theorem State.withFetchWord_run (nbits w : Nat) : (s.withFetchWord nbits w).run = s.run := rfl
@[simp] theorem State.withFetchWord_round (nbits w : Nat) : (s.withFetchWord nbits w).round = s.round := rfl
@[simp] theorem State.withFetchWord_ovf (nbits w : Nat) : (s.withFetchWord nbits w).ovf = s.ovf := rfl
@[simp] theorem State.withFetchWord_channels (nbits w : Nat) : (s.withFetchWord nbits w).channels = s.channels := rfl
@[simp] theorem State.withFetchWord_cpend0 (nbits w : Nat) : (s.withFetchWord nbits w).cpend0 = s.cpend0 := rfl
@[simp] theorem State.withFetchWord_cpendv (nbits w : Nat) : (s.withFetchWord nbits w).cpendv = s.cpendv := rfl
@[simp] theorem State.withFetchWord_tspurCnt (nbits w : Nat) : (s.withFetchWord nbits w).tspurCnt = s.tspurCnt := rfl
@[simp] theorem State.withFetchWord_portMin (nbits w : Nat) : (s.withFetchWord nbits w).portMin = s.portMin := rfl
@[simp] theorem State.withFetchWord_ports (nbits w : Nat) : (s.withFetchWord nbits w).ports = s.ports := rfl
@[simp] theorem State.withFetchWord_ginitDone (nbits w : Nat) : (s.withFetchWord nbits w).ginitDone = s.ginitDone := rfl
@[simp] theorem State.withFetchWord_gie (nbits w : Nat) : (s.withFetchWord nbits w).gie = s.gie := rfl
@[simp] theorem State.withFetchWord_eng (nbits w : Nat) : (s.withFetchWord nbits w).eng = s.eng := rfl
@[simp] theorem State.withFetchWord_faultUninit (nbits w : Nat) : (s.withFetchWord nbits w).faultUninit = s.faultUninit := rfl
@[simp] theorem State.withFetchWord_faultOvfMissed (nbits w : Nat) : (s.withFetchWord nbits w).faultOvfMissed = s.faultOvfMissed := rfl
@[simp] theorem State.withFetchWord_flagMultibit (nbits w : Nat) : (s.withFetchWord nbits w).flagMultibit = s.flagMultibit := rfl
@[simp] theorem State.withFetchWord_settings (nbits w : Nat) : (s.withFetchWord nbits w).settings = s.settings := rfl
@[simp] theorem State.withFetchWord_response (nbits w : Nat) : (s.withFetchWord nbits w).response = s.response := rfl
@[simp] theorem State.withFetchWord_trace (nbits w : Nat) : (s.withFetchWord nbits w).trace = s.trace := rfl
@[simp] theorem State.withFetchWord_agenda (nbits w : Nat) : (s.withFetchWord nbits w).agenda = .host (tableCmd nbits w) (tableData nbits w) :: s.agenda := rfl
@[simp] theorem State.withFetchWord_turns (nbits w : Nat) : (s.withFetchWord nbits w).turns = s.turns := rfl
@[simp] theorem State.withFetchWord_draws (nbits w : Nat) : (s.withFetchWord nbits w).draws = s.draws := rfl

/-! ### Ports, field by field -/

/-- Two ports are equal when their fields are. -/
theorem Port.eq_of_fields {a b : Port} (h0 : a.out = b.out) (h1 : a.dir = b.dir) (h2 : a.ren = b.ren) (h3 : a.ies = b.ies) (h4 : a.ie = b.ie) (h5 : a.ifg = b.ifg) (h6 : a.ext = b.ext) (h7 : a.savedIe = b.savedIe) (h8 : a.pins = b.pins) (h9 : a.pend = b.pend) (h10 : a.bounceCnt = b.bounceCnt) (h11 : a.spurCnt = b.spurCnt) :
    a = b := by
  cases a; cases b; simp_all

/-! ### Channels -/

variable (ch : Channel)

@[simp] theorem Channel.clearFlag_ccr : (ch.clearFlag).ccr = ch.ccr := rfl
@[simp] theorem Channel.clearFlag_ccie : (ch.clearFlag).ccie = ch.ccie := rfl
@[simp] theorem Channel.clearFlag_ccifg : (ch.clearFlag).ccifg = false := rfl
@[simp] theorem Channel.clearFlag_armed : (ch.clearFlag).armed = ch.armed := rfl
@[simp] theorem Channel.clearFlag_targetRound : (ch.clearFlag).targetRound = ch.targetRound := rfl
@[simp] theorem Channel.clearFlag_callback : (ch.clearFlag).callback = ch.callback := rfl
@[simp] theorem Channel.compare_ccr (n : Half) : (ch.compare n).ccr = ch.ccr := rfl
@[simp] theorem Channel.compare_ccie (n : Half) : (ch.compare n).ccie = ch.ccie := rfl
@[simp] theorem Channel.compare_ccifg (n : Half) : (ch.compare n).ccifg = (ch.ccifg || n == ch.ccr) := rfl
@[simp] theorem Channel.compare_armed (n : Half) : (ch.compare n).armed = ch.armed := rfl
@[simp] theorem Channel.compare_targetRound (n : Half) : (ch.compare n).targetRound = ch.targetRound := rfl
@[simp] theorem Channel.compare_callback (n : Half) : (ch.compare n).callback = ch.callback := rfl
@[simp] theorem Channel.disarm_ccr : (ch.disarm).ccr = ch.ccr := rfl
@[simp] theorem Channel.disarm_ccie : (ch.disarm).ccie = false := rfl
@[simp] theorem Channel.disarm_ccifg : (ch.disarm).ccifg = false := rfl
@[simp] theorem Channel.disarm_armed : (ch.disarm).armed = false := rfl
@[simp] theorem Channel.disarm_targetRound : (ch.disarm).targetRound = ch.targetRound := rfl
@[simp] theorem Channel.disarm_callback : (ch.disarm).callback = 0 := rfl
@[simp] theorem Channel.arm_ccr (cmp : Half) (r : Word) (cb : Byte) : (ch.arm cmp r cb).ccr = cmp := rfl
@[simp] theorem Channel.arm_ccie (cmp : Half) (r : Word) (cb : Byte) : (ch.arm cmp r cb).ccie = true := rfl
@[simp] theorem Channel.arm_ccifg (cmp : Half) (r : Word) (cb : Byte) : (ch.arm cmp r cb).ccifg = false := rfl
@[simp] theorem Channel.arm_armed (cmp : Half) (r : Word) (cb : Byte) : (ch.arm cmp r cb).armed = true := rfl
@[simp] theorem Channel.arm_targetRound (cmp : Half) (r : Word) (cb : Byte) : (ch.arm cmp r cb).targetRound = r := rfl
@[simp] theorem Channel.arm_callback (cmp : Half) (r : Word) (cb : Byte) : (ch.arm cmp r cb).callback = cb := rfl

/-! ### Ports -/

variable (q : Port)

@[simp] theorem Port.putOut_out (v : Byte) : (q.putOut v).out = v := rfl
@[simp] theorem Port.putOut_dir (v : Byte) : (q.putOut v).dir = q.dir := rfl
@[simp] theorem Port.putOut_ren (v : Byte) : (q.putOut v).ren = q.ren := rfl
@[simp] theorem Port.putOut_ies (v : Byte) : (q.putOut v).ies = q.ies := rfl
@[simp] theorem Port.putOut_ie (v : Byte) : (q.putOut v).ie = q.ie := rfl
@[simp] theorem Port.putOut_ifg (v : Byte) : (q.putOut v).ifg = q.ifg := rfl
@[simp] theorem Port.putOut_ext (v : Byte) : (q.putOut v).ext = q.ext := rfl
@[simp] theorem Port.putOut_savedIe (v : Byte) : (q.putOut v).savedIe = q.savedIe := rfl
@[simp] theorem Port.putOut_pins (v : Byte) : (q.putOut v).pins = q.pins := rfl
@[simp] theorem Port.putOut_pend (v : Byte) : (q.putOut v).pend = q.pend := rfl
@[simp] theorem Port.putOut_bounceCnt (v : Byte) : (q.putOut v).bounceCnt = q.bounceCnt := rfl
@[simp] theorem Port.putOut_spurCnt (v : Byte) : (q.putOut v).spurCnt = q.spurCnt := rfl
@[simp] theorem Port.putDir_out (v : Byte) : (q.putDir v).out = q.out := rfl
@[simp] theorem Port.putDir_dir (v : Byte) : (q.putDir v).dir = v := rfl
@[simp] theorem Port.putDir_ren (v : Byte) : (q.putDir v).ren = q.ren := rfl
@[simp] theorem Port.putDir_ies (v : Byte) : (q.putDir v).ies = q.ies := rfl
@[simp] theorem Port.putDir_ie (v : Byte) : (q.putDir v).ie = q.ie := rfl
@[simp] theorem Port.putDir_ifg (v : Byte) : (q.putDir v).ifg = q.ifg := rfl
@[simp] theorem Port.putDir_ext (v : Byte) : (q.putDir v).ext = q.ext := rfl
@[simp] theorem Port.putDir_savedIe (v : Byte) : (q.putDir v).savedIe = q.savedIe := rfl
@[simp] theorem Port.putDir_pins (v : Byte) : (q.putDir v).pins = q.pins := rfl
@[simp] theorem Port.putDir_pend (v : Byte) : (q.putDir v).pend = q.pend := rfl
@[simp] theorem Port.putDir_bounceCnt (v : Byte) : (q.putDir v).bounceCnt = q.bounceCnt := rfl
@[simp] theorem Port.putDir_spurCnt (v : Byte) : (q.putDir v).spurCnt = q.spurCnt := rfl
@[simp] theorem Port.putRen_out (v : Byte) : (q.putRen v).out = q.out := rfl
@[simp] theorem Port.putRen_dir (v : Byte) : (q.putRen v).dir = q.dir := rfl
@[simp] theorem Port.putRen_ren (v : Byte) : (q.putRen v).ren = v := rfl
@[simp] theorem Port.putRen_ies (v : Byte) : (q.putRen v).ies = q.ies := rfl
@[simp] theorem Port.putRen_ie (v : Byte) : (q.putRen v).ie = q.ie := rfl
@[simp] theorem Port.putRen_ifg (v : Byte) : (q.putRen v).ifg = q.ifg := rfl
@[simp] theorem Port.putRen_ext (v : Byte) : (q.putRen v).ext = q.ext := rfl
@[simp] theorem Port.putRen_savedIe (v : Byte) : (q.putRen v).savedIe = q.savedIe := rfl
@[simp] theorem Port.putRen_pins (v : Byte) : (q.putRen v).pins = q.pins := rfl
@[simp] theorem Port.putRen_pend (v : Byte) : (q.putRen v).pend = q.pend := rfl
@[simp] theorem Port.putRen_bounceCnt (v : Byte) : (q.putRen v).bounceCnt = q.bounceCnt := rfl
@[simp] theorem Port.putRen_spurCnt (v : Byte) : (q.putRen v).spurCnt = q.spurCnt := rfl
@[simp] theorem Port.putIes_out (v : Byte) : (q.putIes v).out = q.out := rfl
@[simp] theorem Port.putIes_dir (v : Byte) : (q.putIes v).dir = q.dir := rfl
@[simp] theorem Port.putIes_ren (v : Byte) : (q.putIes v).ren = q.ren := rfl
@[simp] theorem Port.putIes_ies (v : Byte) : (q.putIes v).ies = v := rfl
@[simp] theorem Port.putIes_ie (v : Byte) : (q.putIes v).ie = q.ie := rfl
@[simp] theorem Port.putIes_ifg (v : Byte) : (q.putIes v).ifg = q.ifg := rfl
@[simp] theorem Port.putIes_ext (v : Byte) : (q.putIes v).ext = q.ext := rfl
@[simp] theorem Port.putIes_savedIe (v : Byte) : (q.putIes v).savedIe = q.savedIe := rfl
@[simp] theorem Port.putIes_pins (v : Byte) : (q.putIes v).pins = q.pins := rfl
@[simp] theorem Port.putIes_pend (v : Byte) : (q.putIes v).pend = q.pend := rfl
@[simp] theorem Port.putIes_bounceCnt (v : Byte) : (q.putIes v).bounceCnt = q.bounceCnt := rfl
@[simp] theorem Port.putIes_spurCnt (v : Byte) : (q.putIes v).spurCnt = q.spurCnt := rfl
@[simp] theorem Port.putIfg_out (v : Byte) : (q.putIfg v).out = q.out := rfl
@[simp] theorem Port.putIfg_dir (v : Byte) : (q.putIfg v).dir = q.dir := rfl
@[simp] theorem Port.putIfg_ren (v : Byte) : (q.putIfg v).ren = q.ren := rfl
@[simp] theorem Port.putIfg_ies (v : Byte) : (q.putIfg v).ies = q.ies := rfl
@[simp] theorem Port.putIfg_ie (v : Byte) : (q.putIfg v).ie = q.ie := rfl
@[simp] theorem Port.putIfg_ifg (v : Byte) : (q.putIfg v).ifg = v := rfl
@[simp] theorem Port.putIfg_ext (v : Byte) : (q.putIfg v).ext = q.ext := rfl
@[simp] theorem Port.putIfg_savedIe (v : Byte) : (q.putIfg v).savedIe = q.savedIe := rfl
@[simp] theorem Port.putIfg_pins (v : Byte) : (q.putIfg v).pins = q.pins := rfl
@[simp] theorem Port.putIfg_pend (v : Byte) : (q.putIfg v).pend = q.pend := rfl
@[simp] theorem Port.putIfg_bounceCnt (v : Byte) : (q.putIfg v).bounceCnt = q.bounceCnt := rfl
@[simp] theorem Port.putIfg_spurCnt (v : Byte) : (q.putIfg v).spurCnt = q.spurCnt := rfl
@[simp] theorem Port.putExt_out (v : Byte) : (q.putExt v).out = q.out := rfl
@[simp] theorem Port.putExt_dir (v : Byte) : (q.putExt v).dir = q.dir := rfl
@[simp] theorem Port.putExt_ren (v : Byte) : (q.putExt v).ren = q.ren := rfl
@[simp] theorem Port.putExt_ies (v : Byte) : (q.putExt v).ies = q.ies := rfl
@[simp] theorem Port.putExt_ie (v : Byte) : (q.putExt v).ie = q.ie := rfl
@[simp] theorem Port.putExt_ifg (v : Byte) : (q.putExt v).ifg = q.ifg := rfl
@[simp] theorem Port.putExt_ext (v : Byte) : (q.putExt v).ext = v := rfl
@[simp] theorem Port.putExt_savedIe (v : Byte) : (q.putExt v).savedIe = q.savedIe := rfl
@[simp] theorem Port.putExt_pins (v : Byte) : (q.putExt v).pins = q.pins := rfl
@[simp] theorem Port.putExt_pend (v : Byte) : (q.putExt v).pend = q.pend := rfl
@[simp] theorem Port.putExt_bounceCnt (v : Byte) : (q.putExt v).bounceCnt = q.bounceCnt := rfl
@[simp] theorem Port.putExt_spurCnt (v : Byte) : (q.putExt v).spurCnt = q.spurCnt := rfl
@[simp] theorem Port.orFlags_out (b : Byte) : (q.orFlags b).out = q.out := rfl
@[simp] theorem Port.orFlags_dir (b : Byte) : (q.orFlags b).dir = q.dir := rfl
@[simp] theorem Port.orFlags_ren (b : Byte) : (q.orFlags b).ren = q.ren := rfl
@[simp] theorem Port.orFlags_ies (b : Byte) : (q.orFlags b).ies = q.ies := rfl
@[simp] theorem Port.orFlags_ie (b : Byte) : (q.orFlags b).ie = q.ie := rfl
@[simp] theorem Port.orFlags_ifg (b : Byte) : (q.orFlags b).ifg = q.ifg ||| b := rfl
@[simp] theorem Port.orFlags_ext (b : Byte) : (q.orFlags b).ext = q.ext := rfl
@[simp] theorem Port.orFlags_savedIe (b : Byte) : (q.orFlags b).savedIe = q.savedIe := rfl
@[simp] theorem Port.orFlags_pins (b : Byte) : (q.orFlags b).pins = q.pins := rfl
@[simp] theorem Port.orFlags_pend (b : Byte) : (q.orFlags b).pend = q.pend := rfl
@[simp] theorem Port.orFlags_bounceCnt (b : Byte) : (q.orFlags b).bounceCnt = q.bounceCnt := rfl
@[simp] theorem Port.orFlags_spurCnt (b : Byte) : (q.orFlags b).spurCnt = q.spurCnt := rfl
@[simp] theorem Port.enter_out : (q.enter).out = q.out := rfl
@[simp] theorem Port.enter_dir : (q.enter).dir = q.dir := rfl
@[simp] theorem Port.enter_ren : (q.enter).ren = q.ren := rfl
@[simp] theorem Port.enter_ies : (q.enter).ies = q.ies := rfl
@[simp] theorem Port.enter_ie : (q.enter).ie = 0 := rfl
@[simp] theorem Port.enter_ifg : (q.enter).ifg = q.ifg := rfl
@[simp] theorem Port.enter_ext : (q.enter).ext = q.ext := rfl
@[simp] theorem Port.enter_savedIe : (q.enter).savedIe = q.ie := rfl
@[simp] theorem Port.enter_pins : (q.enter).pins = q.pins := rfl
@[simp] theorem Port.enter_pend : (q.enter).pend = false := rfl
@[simp] theorem Port.enter_bounceCnt : (q.enter).bounceCnt = q.bounceCnt := rfl
@[simp] theorem Port.enter_spurCnt : (q.enter).spurCnt = q.spurCnt := rfl
@[simp] theorem Port.finish_out : (q.finish).out = q.out := rfl
@[simp] theorem Port.finish_dir : (q.finish).dir = q.dir := rfl
@[simp] theorem Port.finish_ren : (q.finish).ren = q.ren := rfl
@[simp] theorem Port.finish_ies : (q.finish).ies = q.ies := rfl
@[simp] theorem Port.finish_ie : (q.finish).ie = q.savedIe := rfl
@[simp] theorem Port.finish_ifg : (q.finish).ifg = 0 := rfl
@[simp] theorem Port.finish_ext : (q.finish).ext = q.ext := rfl
@[simp] theorem Port.finish_savedIe : (q.finish).savedIe = q.savedIe := rfl
@[simp] theorem Port.finish_pins : (q.finish).pins = q.pins := rfl
@[simp] theorem Port.finish_pend : (q.finish).pend = q.pend := rfl
@[simp] theorem Port.finish_bounceCnt : (q.finish).bounceCnt = q.bounceCnt := rfl
@[simp] theorem Port.finish_spurCnt : (q.finish).spurCnt = q.spurCnt := rfl
@[simp] theorem Port.countSpurious_out : (q.countSpurious).out = q.out := rfl
@[simp] theorem Port.countSpurious_dir : (q.countSpurious).dir = q.dir := rfl
@[simp] theorem Port.countSpurious_ren : (q.countSpurious).ren = q.ren := rfl
@[simp] theorem Port.countSpurious_ies : (q.countSpurious).ies = q.ies := rfl
@[simp] theorem Port.countSpurious_ie : (q.countSpurious).ie = q.ie := rfl
@[simp] theorem Port.countSpurious_ifg : (q.countSpurious).ifg = q.ifg := rfl
@[simp] theorem Port.countSpurious_ext : (q.countSpurious).ext = q.ext := rfl
@[simp] theorem Port.countSpurious_savedIe : (q.countSpurious).savedIe = q.savedIe := rfl
@[simp] theorem Port.countSpurious_pins : (q.countSpurious).pins = q.pins := rfl
@[simp] theorem Port.countSpurious_pend : (q.countSpurious).pend = q.pend := rfl
@[simp] theorem Port.countSpurious_bounceCnt : (q.countSpurious).bounceCnt = q.bounceCnt := rfl
@[simp] theorem Port.countSpurious_spurCnt : (q.countSpurious).spurCnt = q.spurCnt + 1 := rfl
@[simp] theorem Port.countBounce_out : (q.countBounce).out = q.out := rfl
@[simp] theorem Port.countBounce_dir : (q.countBounce).dir = q.dir := rfl
@[simp] theorem Port.countBounce_ren : (q.countBounce).ren = q.ren := rfl
@[simp] theorem Port.countBounce_ies : (q.countBounce).ies = q.ies := rfl
@[simp] theorem Port.countBounce_ie : (q.countBounce).ie = q.ie := rfl
@[simp] theorem Port.countBounce_ifg : (q.countBounce).ifg = q.ifg := rfl
@[simp] theorem Port.countBounce_ext : (q.countBounce).ext = q.ext := rfl
@[simp] theorem Port.countBounce_savedIe : (q.countBounce).savedIe = q.savedIe := rfl
@[simp] theorem Port.countBounce_pins : (q.countBounce).pins = q.pins := rfl
@[simp] theorem Port.countBounce_pend : (q.countBounce).pend = q.pend := rfl
@[simp] theorem Port.countBounce_bounceCnt : (q.countBounce).bounceCnt = q.bounceCnt + 1 := rfl
@[simp] theorem Port.countBounce_spurCnt : (q.countBounce).spurCnt = q.spurCnt := rfl
@[simp] theorem Port.latch_out : (q.latch).out = q.out := rfl
@[simp] theorem Port.latch_dir : (q.latch).dir = q.dir := rfl
@[simp] theorem Port.latch_ren : (q.latch).ren = q.ren := rfl
@[simp] theorem Port.latch_ies : (q.latch).ies = q.ies := rfl
@[simp] theorem Port.latch_ie : (q.latch).ie = q.ie := rfl
@[simp] theorem Port.latch_ifg : (q.latch).ifg = q.ifg := rfl
@[simp] theorem Port.latch_ext : (q.latch).ext = q.ext := rfl
@[simp] theorem Port.latch_savedIe : (q.latch).savedIe = q.savedIe := rfl
@[simp] theorem Port.latch_pins : (q.latch).pins = q.pins := rfl
@[simp] theorem Port.latch_pend : (q.latch).pend = (q.pend || q.request) := rfl
@[simp] theorem Port.latch_bounceCnt : (q.latch).bounceCnt = q.bounceCnt := rfl
@[simp] theorem Port.latch_spurCnt : (q.latch).spurCnt = q.spurCnt := rfl
@[simp] theorem Port.clearFlag_out (i : Fin 8) : (q.clearFlag i).out = q.out := rfl
@[simp] theorem Port.clearFlag_dir (i : Fin 8) : (q.clearFlag i).dir = q.dir := rfl
@[simp] theorem Port.clearFlag_ren (i : Fin 8) : (q.clearFlag i).ren = q.ren := rfl
@[simp] theorem Port.clearFlag_ies (i : Fin 8) : (q.clearFlag i).ies = q.ies := rfl
@[simp] theorem Port.clearFlag_ie (i : Fin 8) : (q.clearFlag i).ie = q.ie := rfl
@[simp] theorem Port.clearFlag_ifg (i : Fin 8) : (q.clearFlag i).ifg = q.ifg &&& ~~~(pinMask i) := rfl
@[simp] theorem Port.clearFlag_ext (i : Fin 8) : (q.clearFlag i).ext = q.ext := rfl
@[simp] theorem Port.clearFlag_savedIe (i : Fin 8) : (q.clearFlag i).savedIe = q.savedIe := rfl
@[simp] theorem Port.clearFlag_pins (i : Fin 8) : (q.clearFlag i).pins = q.pins := rfl
@[simp] theorem Port.clearFlag_pend (i : Fin 8) : (q.clearFlag i).pend = q.pend := rfl
@[simp] theorem Port.clearFlag_bounceCnt (i : Fin 8) : (q.clearFlag i).bounceCnt = q.bounceCnt := rfl
@[simp] theorem Port.clearFlag_spurCnt (i : Fin 8) : (q.clearFlag i).spurCnt = q.spurCnt := rfl
@[simp] theorem Port.clearPins_out : (q.clearPins).out = q.out := rfl
@[simp] theorem Port.clearPins_dir : (q.clearPins).dir = q.dir := rfl
@[simp] theorem Port.clearPins_ren : (q.clearPins).ren = q.ren := rfl
@[simp] theorem Port.clearPins_ies : (q.clearPins).ies = q.ies := rfl
@[simp] theorem Port.clearPins_ie : (q.clearPins).ie = q.ie := rfl
@[simp] theorem Port.clearPins_ifg : (q.clearPins).ifg = q.ifg := rfl
@[simp] theorem Port.clearPins_ext : (q.clearPins).ext = q.ext := rfl
@[simp] theorem Port.clearPins_savedIe : (q.clearPins).savedIe = q.savedIe := rfl
@[simp] theorem Port.clearPins_pins : (q.clearPins).pins = Pin.table := rfl
@[simp] theorem Port.clearPins_pend : (q.clearPins).pend = q.pend := rfl
@[simp] theorem Port.clearPins_bounceCnt : (q.clearPins).bounceCnt = q.bounceCnt := rfl
@[simp] theorem Port.clearPins_spurCnt : (q.clearPins).spurCnt = q.spurCnt := rfl
@[simp] theorem Port.stamp_out (i : Fin 8) (t : Half) : (q.stamp i t).out = q.out := rfl
@[simp] theorem Port.stamp_dir (i : Fin 8) (t : Half) : (q.stamp i t).dir = q.dir := rfl
@[simp] theorem Port.stamp_ren (i : Fin 8) (t : Half) : (q.stamp i t).ren = q.ren := rfl
@[simp] theorem Port.stamp_ies (i : Fin 8) (t : Half) : (q.stamp i t).ies = q.ies := rfl
@[simp] theorem Port.stamp_ie (i : Fin 8) (t : Half) : (q.stamp i t).ie = q.ie := rfl
@[simp] theorem Port.stamp_ifg (i : Fin 8) (t : Half) : (q.stamp i t).ifg = q.ifg := rfl
@[simp] theorem Port.stamp_ext (i : Fin 8) (t : Half) : (q.stamp i t).ext = q.ext := rfl
@[simp] theorem Port.stamp_savedIe (i : Fin 8) (t : Half) : (q.stamp i t).savedIe = q.savedIe := rfl
@[simp] theorem Port.stamp_pend (i : Fin 8) (t : Half) : (q.stamp i t).pend = q.pend := rfl
@[simp] theorem Port.stamp_bounceCnt (i : Fin 8) (t : Half) : (q.stamp i t).bounceCnt = q.bounceCnt := rfl
@[simp] theorem Port.stamp_spurCnt (i : Fin 8) (t : Half) : (q.stamp i t).spurCnt = q.spurCnt := rfl
@[simp] theorem Port.register_out (i : Fin 8) (cb : Byte) (d : Bool) : (q.register i cb d).out = q.out := rfl
@[simp] theorem Port.register_dir (i : Fin 8) (cb : Byte) (d : Bool) : (q.register i cb d).dir = q.dir := rfl
@[simp] theorem Port.register_ren (i : Fin 8) (cb : Byte) (d : Bool) : (q.register i cb d).ren = q.ren := rfl
@[simp] theorem Port.register_ies (i : Fin 8) (cb : Byte) (d : Bool) : (q.register i cb d).ies = q.ies := rfl
@[simp] theorem Port.register_ie (i : Fin 8) (cb : Byte) (d : Bool) : (q.register i cb d).ie = q.ie := rfl
@[simp] theorem Port.register_ifg (i : Fin 8) (cb : Byte) (d : Bool) : (q.register i cb d).ifg = q.ifg := rfl
@[simp] theorem Port.register_ext (i : Fin 8) (cb : Byte) (d : Bool) : (q.register i cb d).ext = q.ext := rfl
@[simp] theorem Port.register_savedIe (i : Fin 8) (cb : Byte) (d : Bool) : (q.register i cb d).savedIe = q.savedIe := rfl
@[simp] theorem Port.register_pend (i : Fin 8) (cb : Byte) (d : Bool) : (q.register i cb d).pend = q.pend := rfl
@[simp] theorem Port.register_bounceCnt (i : Fin 8) (cb : Byte) (d : Bool) : (q.register i cb d).bounceCnt = q.bounceCnt := rfl
@[simp] theorem Port.register_spurCnt (i : Fin 8) (cb : Byte) (d : Bool) : (q.register i cb d).spurCnt = q.spurCnt := rfl
@[simp] theorem Port.detectEdges_out (l : Byte) : (Port.detectEdges l q).out = q.out := rfl
@[simp] theorem Port.detectEdges_dir (l : Byte) : (Port.detectEdges l q).dir = q.dir := rfl
@[simp] theorem Port.detectEdges_ren (l : Byte) : (Port.detectEdges l q).ren = q.ren := rfl
@[simp] theorem Port.detectEdges_ies (l : Byte) : (Port.detectEdges l q).ies = q.ies := rfl
@[simp] theorem Port.detectEdges_ie (l : Byte) : (Port.detectEdges l q).ie = q.ie := rfl
@[simp] theorem Port.detectEdges_ifg (l : Byte) : (Port.detectEdges l q).ifg = q.ifg ||| edges l q.level q.ies := rfl
@[simp] theorem Port.detectEdges_ext (l : Byte) : (Port.detectEdges l q).ext = q.ext := rfl
@[simp] theorem Port.detectEdges_savedIe (l : Byte) : (Port.detectEdges l q).savedIe = q.savedIe := rfl
@[simp] theorem Port.detectEdges_pins (l : Byte) : (Port.detectEdges l q).pins = q.pins := rfl
@[simp] theorem Port.detectEdges_pend (l : Byte) : (Port.detectEdges l q).pend = q.pend := rfl
@[simp] theorem Port.detectEdges_bounceCnt (l : Byte) : (Port.detectEdges l q).bounceCnt = q.bounceCnt := rfl
@[simp] theorem Port.detectEdges_spurCnt (l : Byte) : (Port.detectEdges l q).spurCnt = q.spurCnt := rfl
@[simp] theorem Port.configure_dir (m : Byte) (fl : GpioFlags) : (Port.configure m fl q).dir = q.dir &&& ~~~m := rfl
@[simp] theorem Port.configure_ie (m : Byte) (fl : GpioFlags) : (Port.configure m fl q).ie = q.ie := rfl
@[simp] theorem Port.configure_ifg (m : Byte) (fl : GpioFlags) : (Port.configure m fl q).ifg = q.ifg := rfl
@[simp] theorem Port.configure_ext (m : Byte) (fl : GpioFlags) : (Port.configure m fl q).ext = q.ext := rfl
@[simp] theorem Port.configure_savedIe (m : Byte) (fl : GpioFlags) : (Port.configure m fl q).savedIe = q.savedIe := rfl
@[simp] theorem Port.configure_pins (m : Byte) (fl : GpioFlags) : (Port.configure m fl q).pins = q.pins := rfl
@[simp] theorem Port.configure_pend (m : Byte) (fl : GpioFlags) : (Port.configure m fl q).pend = q.pend := rfl
@[simp] theorem Port.configure_bounceCnt (m : Byte) (fl : GpioFlags) : (Port.configure m fl q).bounceCnt = q.bounceCnt := rfl
@[simp] theorem Port.configure_spurCnt (m : Byte) (fl : GpioFlags) : (Port.configure m fl q).spurCnt = q.spurCnt := rfl
@[simp] theorem Port.writeIe_out (b : Bool) (v : Byte) : (q.writeIe b v).out = q.out := by unfold Port.writeIe; split <;> rfl
@[simp] theorem Port.writeIe_dir (b : Bool) (v : Byte) : (q.writeIe b v).dir = q.dir := by unfold Port.writeIe; split <;> rfl
@[simp] theorem Port.writeIe_ren (b : Bool) (v : Byte) : (q.writeIe b v).ren = q.ren := by unfold Port.writeIe; split <;> rfl
@[simp] theorem Port.writeIe_ies (b : Bool) (v : Byte) : (q.writeIe b v).ies = q.ies := by unfold Port.writeIe; split <;> rfl
@[simp] theorem Port.writeIe_ifg (b : Bool) (v : Byte) : (q.writeIe b v).ifg = q.ifg := by unfold Port.writeIe; split <;> rfl
@[simp] theorem Port.writeIe_ext (b : Bool) (v : Byte) : (q.writeIe b v).ext = q.ext := by unfold Port.writeIe; split <;> rfl
@[simp] theorem Port.writeIe_pins (b : Bool) (v : Byte) : (q.writeIe b v).pins = q.pins := by unfold Port.writeIe; split <;> rfl
@[simp] theorem Port.writeIe_pend (b : Bool) (v : Byte) : (q.writeIe b v).pend = q.pend := by unfold Port.writeIe; split <;> rfl
@[simp] theorem Port.writeIe_bounceCnt (b : Bool) (v : Byte) : (q.writeIe b v).bounceCnt = q.bounceCnt := by unfold Port.writeIe; split <;> rfl
@[simp] theorem Port.writeIe_spurCnt (b : Bool) (v : Byte) : (q.writeIe b v).spurCnt = q.spurCnt := by unfold Port.writeIe; split <;> rfl
@[simp] theorem Port.writeIe_ie (b : Bool) (v : Byte) : (q.writeIe b v).ie = if b then q.ie else v := by
  unfold Port.writeIe; split <;> rfl
@[simp] theorem Port.writeIe_savedIe (b : Bool) (v : Byte) : (q.writeIe b v).savedIe = if b then v else q.savedIe := by
  unfold Port.writeIe; split <;> rfl
@[simp] theorem Port.readIe_true : q.readIe true = q.savedIe := rfl
@[simp] theorem Port.readIe_false : q.readIe false = q.ie := rfl
@[simp] theorem Port.change_out (f : Port → Port) : (Port.change f q).out = (f q).out := rfl
@[simp] theorem Port.change_dir (f : Port → Port) : (Port.change f q).dir = (f q).dir := rfl
@[simp] theorem Port.change_ren (f : Port → Port) : (Port.change f q).ren = (f q).ren := rfl
@[simp] theorem Port.change_ies (f : Port → Port) : (Port.change f q).ies = (f q).ies := rfl
@[simp] theorem Port.change_ie (f : Port → Port) : (Port.change f q).ie = (f q).ie := rfl
@[simp] theorem Port.change_ext (f : Port → Port) : (Port.change f q).ext = (f q).ext := rfl
@[simp] theorem Port.change_savedIe (f : Port → Port) : (Port.change f q).savedIe = (f q).savedIe := rfl
@[simp] theorem Port.change_pins (f : Port → Port) : (Port.change f q).pins = (f q).pins := rfl
@[simp] theorem Port.change_pend (f : Port → Port) : (Port.change f q).pend = (f q).pend := rfl
@[simp] theorem Port.change_bounceCnt (f : Port → Port) : (Port.change f q).bounceCnt = (f q).bounceCnt := rfl
@[simp] theorem Port.change_spurCnt (f : Port → Port) : (Port.change f q).spurCnt = (f q).spurCnt := rfl

end Sys2Proof.Machine
end

