-- ==== Sys2Proof/Laws/Access.lean ====
section
/-! SUPPORT. Reads of a channel and of a port after each update (20_memory.md R80): a read after a write of the same
index gives the value written, and a write leaves every other index alone. -/

namespace Sys2Proof.Machine

variable (s : State)

@[simp] theorem State.chan_respond (st : Status) (v : Long) (k : Nat) : (s.respond st v).chan k = s.chan k := rfl
@[simp] theorem State.n_respond (st : Status) (v : Long) : (s.respond st v).n = s.n := rfl
@[simp] theorem State.port_respond (st : Status) (v : Long) (k : Nat) : (s.respond st v).port k = s.port k := rfl
@[simp] theorem State.supported_respond (st : Status) (v : Long) (k : Nat) : (s.respond st v).supported k = s.supported k := rfl
@[simp] theorem State.serving_respond (st : Status) (v : Long) (k : Nat) : (s.respond st v).serving k = s.serving k := rfl
@[simp] theorem State.chan_log (e : Event) (k : Nat) : (s.log e).chan k = s.chan k := rfl
@[simp] theorem State.n_log (e : Event) : (s.log e).n = s.n := rfl
@[simp] theorem State.port_log (e : Event) (k : Nat) : (s.log e).port k = s.port k := rfl
@[simp] theorem State.supported_log (e : Event) (k : Nat) : (s.log e).supported k = s.supported k := rfl
@[simp] theorem State.serving_log (e : Event) (k : Nat) : (s.log e).serving k = s.serving k := rfl
@[simp] theorem State.chan_countTimerSpurious (k : Nat) : (s.countTimerSpurious).chan k = s.chan k := rfl
@[simp] theorem State.n_countTimerSpurious : (s.countTimerSpurious).n = s.n := rfl
@[simp] theorem State.port_countTimerSpurious (k : Nat) : (s.countTimerSpurious).port k = s.port k := rfl
@[simp] theorem State.supported_countTimerSpurious (k : Nat) : (s.countTimerSpurious).supported k = s.supported k := rfl
@[simp] theorem State.serving_countTimerSpurious (k : Nat) : (s.countTimerSpurious).serving k = s.serving k := rfl
@[simp] theorem State.chan_popTurn (k : Nat) : (s.popTurn).chan k = s.chan k := rfl
@[simp] theorem State.n_popTurn : (s.popTurn).n = s.n := rfl
@[simp] theorem State.port_popTurn (k : Nat) : (s.popTurn).port k = s.port k := rfl
@[simp] theorem State.supported_popTurn (k : Nat) : (s.popTurn).supported k = s.supported k := rfl
@[simp] theorem State.serving_popTurn (k : Nat) : (s.popTurn).serving k = s.serving k := rfl
@[simp] theorem State.chan_illegal (k : Nat) : (s.illegal).chan k = s.chan k := rfl
@[simp] theorem State.n_illegal : (s.illegal).n = s.n := rfl
@[simp] theorem State.port_illegal (k : Nat) : (s.illegal).port k = s.port k := rfl
@[simp] theorem State.supported_illegal (k : Nat) : (s.illegal).supported k = s.supported k := rfl
@[simp] theorem State.serving_illegal (k : Nat) : (s.illegal).serving k = s.serving k := rfl
@[simp] theorem State.chan_withFetchWord (nbits w : Nat) (k : Nat) : (s.withFetchWord nbits w).chan k = s.chan k := rfl
@[simp] theorem State.n_withFetchWord (nbits w : Nat) : (s.withFetchWord nbits w).n = s.n := rfl
@[simp] theorem State.port_withFetchWord (nbits w : Nat) (k : Nat) : (s.withFetchWord nbits w).port k = s.port k := rfl
@[simp] theorem State.supported_withFetchWord (nbits w : Nat) (k : Nat) : (s.withFetchWord nbits w).supported k = s.supported k := rfl
@[simp] theorem State.serving_withFetchWord (nbits w : Nat) (k : Nat) : (s.withFetchWord nbits w).serving k = s.serving k := rfl
@[simp] theorem State.chan_countDraw (k : Nat) : (s.countDraw).chan k = s.chan k := rfl
@[simp] theorem State.n_countDraw : (s.countDraw).n = s.n := rfl
@[simp] theorem State.port_countDraw (k : Nat) : (s.countDraw).port k = s.port k := rfl
@[simp] theorem State.supported_countDraw (k : Nat) : (s.countDraw).supported k = s.supported k := rfl
@[simp] theorem State.serving_countDraw (k : Nat) : (s.countDraw).serving k = s.serving k := rfl
@[simp] theorem State.chan_noteMask (m : Byte) (k : Nat) : (s.noteMask m).chan k = s.chan k := rfl
@[simp] theorem State.n_noteMask (m : Byte) : (s.noteMask m).n = s.n := rfl
@[simp] theorem State.port_noteMask (m : Byte) (k : Nat) : (s.noteMask m).port k = s.port k := rfl
@[simp] theorem State.supported_noteMask (m : Byte) (k : Nat) : (s.noteMask m).supported k = s.supported k := rfl
@[simp] theorem State.serving_noteMask (m : Byte) (k : Nat) : (s.noteMask m).serving k = s.serving k := rfl
@[simp] theorem State.chan_setEng (e : Eng) (k : Nat) : (s.setEng e).chan k = s.chan k := rfl
@[simp] theorem State.n_setEng (e : Eng) : (s.setEng e).n = s.n := rfl
@[simp] theorem State.port_setEng (e : Eng) (k : Nat) : (s.setEng e).port k = s.port k := rfl
@[simp] theorem State.supported_setEng (e : Eng) (k : Nat) : (s.setEng e).supported k = s.supported k := rfl
@[simp] theorem State.chan_enterCallback (cb : Byte) (src : Source) (e : Eng) (k : Nat) : (s.enterCallback cb src e).chan k = s.chan k := rfl
@[simp] theorem State.n_enterCallback (cb : Byte) (src : Source) (e : Eng) : (s.enterCallback cb src e).n = s.n := rfl
@[simp] theorem State.port_enterCallback (cb : Byte) (src : Source) (e : Eng) (k : Nat) : (s.enterCallback cb src e).port k = s.port k := rfl
@[simp] theorem State.supported_enterCallback (cb : Byte) (src : Source) (e : Eng) (k : Nat) : (s.enterCallback cb src e).supported k = s.supported k := rfl

@[simp] theorem State.chan_setPort (p : Nat) (q : Port) (k : Nat) : (s.setPort p q).chan k = s.chan k := rfl
@[simp] theorem State.n_setPort (p : Nat) (q : Port) : (s.setPort p q).n = s.n := rfl
@[simp] theorem State.serving_setPort (p : Nat) (q : Port) (k : Nat) : (s.setPort p q).serving k = s.serving k := rfl
@[simp] theorem State.chan_modPort (p : Nat) (f : Port → Port) (k : Nat) : (s.modPort p f).chan k = s.chan k := rfl
@[simp] theorem State.n_modPort (p : Nat) (f : Port → Port) : (s.modPort p f).n = s.n := rfl
@[simp] theorem State.serving_modPort (p : Nat) (f : Port → Port) (k : Nat) : (s.modPort p f).serving k = s.serving k := rfl
@[simp] theorem State.chan_ieWrite (p : Nat) (v : Byte) (k : Nat) : (s.ieWrite p v).chan k = s.chan k := rfl
@[simp] theorem State.n_ieWrite (p : Nat) (v : Byte) : (s.ieWrite p v).n = s.n := rfl
@[simp] theorem State.serving_ieWrite (p : Nat) (v : Byte) (k : Nat) : (s.ieWrite p v).serving k = s.serving k := rfl
@[simp] theorem State.chan_gsetConfigure (p : Nat) (m : Byte) (fl : GpioFlags) (cb : Byte) (k : Nat) : (s.gsetConfigure p m fl cb).chan k = s.chan k := rfl
@[simp] theorem State.n_gsetConfigure (p : Nat) (m : Byte) (fl : GpioFlags) (cb : Byte) : (s.gsetConfigure p m fl cb).n = s.n := rfl
@[simp] theorem State.serving_gsetConfigure (p : Nat) (m : Byte) (fl : GpioFlags) (cb : Byte) (k : Nat) : (s.gsetConfigure p m fl cb).serving k = s.serving k := rfl
@[simp] theorem State.chan_dispatchFinish (p : Nat) (k : Nat) : (s.dispatchFinish p).chan k = s.chan k := rfl
@[simp] theorem State.n_dispatchFinish (p : Nat) : (s.dispatchFinish p).n = s.n := rfl
@[simp] theorem State.chan_spurious (p : Nat) (k : Nat) : (s.spurious p).chan k = s.chan k := rfl
@[simp] theorem State.n_spurious (p : Nat) : (s.spurious p).n = s.n := rfl
@[simp] theorem State.serving_spurious (p : Nat) (k : Nat) : (s.spurious p).serving k = s.serving k := rfl

@[simp] theorem State.port_setChan (c : Nat) (ch : Channel) (k : Nat) : (s.setChan c ch).port k = s.port k := rfl
@[simp] theorem State.supported_setChan (c : Nat) (ch : Channel) (k : Nat) : (s.setChan c ch).supported k = s.supported k := rfl
@[simp] theorem State.serving_setChan (c : Nat) (ch : Channel) (k : Nat) : (s.setChan c ch).serving k = s.serving k := rfl
@[simp] theorem State.port_modChan (c : Nat) (f : Channel → Channel) (k : Nat) : (s.modChan c f).port k = s.port k := rfl
@[simp] theorem State.supported_modChan (c : Nat) (f : Channel → Channel) (k : Nat) : (s.modChan c f).supported k = s.supported k := rfl
@[simp] theorem State.serving_modChan (c : Nat) (f : Channel → Channel) (k : Nat) : (s.modChan c f).serving k = s.serving k := rfl
@[simp] theorem State.port_disarm (c : Nat) (k : Nat) : (s.disarm c).port k = s.port k := rfl
@[simp] theorem State.supported_disarm (c : Nat) (k : Nat) : (s.disarm c).supported k = s.supported k := rfl
@[simp] theorem State.serving_disarm (c : Nat) (k : Nat) : (s.disarm c).serving k = s.serving k := rfl

/-! ### Channels -/

@[simp] theorem State.n_setChan (c : Nat) (ch : Channel) : (s.setChan c ch).n = s.n := by simp [State.n]
@[simp] theorem State.n_modChan (c : Nat) (f : Channel → Channel) : (s.modChan c f).n = s.n := by simp [State.n]
@[simp] theorem State.n_disarm (c : Nat) : (s.disarm c).n = s.n := by simp [State.n]

variable {s}

theorem State.chan_eq {c : Nat} (h : c < s.channels.length) : s.chan c = s.channels[c] := by
  rw [State.chan, List.getD_eq_getElem?_getD, List.getElem?_eq_getElem h, Option.getD_some]

theorem State.chan_mem {c : Nat} (h : c < s.n) : s.chan c ∈ s.channels := by
  rw [State.chan_eq h]; exact List.getElem_mem _

theorem State.chan_out {c : Nat} (h : s.n ≤ c) : s.chan c = Channel.reset := by
  have h' : s.channels.length ≤ c := h
  simp [State.chan, h']

theorem State.chan_setChan {c : Nat} (k : Nat) (ch : Channel) (h : c < s.n) :
    (s.setChan c ch).chan k = if k = c then ch else s.chan k := by
  have h' : c < s.channels.length := h
  by_cases hk : k = c
  · subst hk; simp [State.chan, h']
  · simp [State.chan, hk, Ne.symm hk]

theorem State.chan_modChan {c : Nat} (k : Nat) (f : Channel → Channel) (h : c < s.n) :
    (s.modChan c f).chan k = if k = c then f (s.chan c) else s.chan k := State.chan_setChan k _ h

theorem State.chan_modChan_ne {c k : Nat} (f : Channel → Channel) (h : k ≠ c) : (s.modChan c f).chan k = s.chan k := by
  simp [State.chan, Ne.symm h]

/-! ### Ports -/

theorem State.supported_iff {p : Nat} : s.supported p = true ↔ s.portMin ≤ p ∧ p - s.portMin < s.ports.length := by
  simp [State.supported]; omega

@[simp] theorem State.supported_setPort (p : Nat) (q : Port) (k : Nat) : (s.setPort p q).supported k = s.supported k := by
  have h : (s.setPort p q).ports.length = s.ports.length := by rw [State.setPort_ports]; split <;> simp
  rw [State.supported, State.supported, h, State.setPort_portMin]
@[simp] theorem State.supported_modPort (p : Nat) (f : Port → Port) (k : Nat) :
    (s.modPort p f).supported k = s.supported k := State.supported_setPort p _ k
@[simp] theorem State.supported_ieWrite (p : Nat) (v : Byte) (k : Nat) : (s.ieWrite p v).supported k = s.supported k :=
  State.supported_modPort p _ k
@[simp] theorem State.supported_dispatchFinish (p k : Nat) : (s.dispatchFinish p).supported k = s.supported k := by
  simp [State.dispatchFinish]
@[simp] theorem State.supported_spurious (p k : Nat) : (s.spurious p).supported k = s.supported k := by
  simp [State.spurious]
@[simp] theorem State.supported_gsetConfigure (p : Nat) (m : Byte) (fl : GpioFlags) (cb : Byte) (k : Nat) :
    (s.gsetConfigure p m fl cb).supported k = s.supported k := by simp [State.gsetConfigure]

theorem State.port_eq {p : Nat} (h : s.supported p = true) :
    s.port p = s.ports[p - s.portMin]'(State.supported_iff.mp h).2 := by
  simp [State.port, h, (State.supported_iff.mp h).2]

theorem State.port_mem {p : Nat} (h : s.supported p = true) : s.port p ∈ s.ports := by
  rw [State.port_eq h]; exact List.getElem_mem _

theorem State.port_out {p : Nat} (h : s.supported p = false) : s.port p = Port.reset 0 := by simp [State.port, h]

theorem State.port_setPort {p : Nat} (k : Nat) (q : Port) (h : s.supported p = true) :
    (s.setPort p q).port k = if k = p then q else s.port k := by
  have hp := State.supported_iff.mp h
  by_cases hk : k = p
  · subst hk; simp [State.port, h, hp.2]
  · by_cases hs : s.supported k = true
    · have hk' := State.supported_iff.mp hs
      have hne : p - s.portMin ≠ k - s.portMin := by omega
      simp [State.port, h, hs, hk, hne]
    · simp [State.port, hs, hk]

theorem State.setPort_out {p : Nat} (q : Port) (h : s.supported p = false) : s.setPort p q = s := by
  simp [State.setPort, h]

theorem State.modPort_out {p : Nat} (f : Port → Port) (h : s.supported p = false) : s.modPort p f = s :=
  State.setPort_out _ h

theorem State.port_modPort {p : Nat} (k : Nat) (f : Port → Port) (h : s.supported p = true) :
    (s.modPort p f).port k = if k = p then f (s.port p) else s.port k := State.port_setPort k _ h

theorem State.port_modPort_ne {p k : Nat} (f : Port → Port) (hk : k ≠ p) : (s.modPort p f).port k = s.port k := by
  by_cases h : s.supported p = true
  · rw [State.port_modPort k f h, if_neg hk]
  · rw [State.modPort_out f (by simpa using h)]

@[simp] theorem State.length_setPort (p : Nat) (q : Port) : (s.setPort p q).ports.length = s.ports.length := by
  rw [State.setPort_ports]; split <;> simp

theorem State.length_modPort (p : Nat) (f : Port → Port) : (s.modPort p f).ports.length = s.ports.length :=
  State.length_setPort p _

/-- Two changes of one port are one change. -/
theorem State.modPort_modPort (p : Nat) (f g : Port → Port) :
    (s.modPort p f).modPort p g = s.modPort p (fun q => g (f q)) := by
  by_cases h : s.supported p = true
  · rw [State.modPort, State.port_modPort p f h, if_pos rfl]
    apply State.ext <;> simp [State.supported_setPort, h, State.modPort]
  · have h : s.supported p = false := by simpa using h
    rw [State.modPort_out f h, State.modPort_out g h, State.modPort_out _ h]

theorem State.mem_ports {q : Port} (h : q ∈ s.ports) : ∃ p, s.supported p = true ∧ s.port p = q := by
  obtain ⟨k, hk, rfl⟩ := List.getElem_of_mem h
  have hs : s.supported (s.portMin + k) = true := State.supported_iff.mpr ⟨by omega, by simpa using hk⟩
  exact ⟨s.portMin + k, hs, by simp [State.port_eq hs]⟩

/-- A state with the same ports has the same port reads. -/
theorem State.port_congr {t : State} (h : t.ports = s.ports) (h' : t.portMin = s.portMin) (p : Nat) :
    t.port p = s.port p := by simp [State.port, State.supported, h, h']

/-- What every change of a port keeps, a write of one port keeps in every port. -/
theorem State.port_modPort_keep {α : Type} (g : Port → α) {f : Port → Port} (hf : ∀ q, g (f q) = g q) (p k : Nat) :
    g ((s.modPort p f).port k) = g (s.port k) := by
  by_cases hs : s.supported p = true
  · rw [State.port_modPort k f hs]
    split
    · subst_vars; exact hf _
    · rfl
  · rw [State.modPort_out f (by simpa using hs)]

/-! ### Latch update and GINIT -/

@[simp] theorem State.chan_updateLatches (k : Nat) : s.updateLatches.chan k = s.chan k := rfl
@[simp] theorem State.n_updateLatches : s.updateLatches.n = s.n := rfl
@[simp] theorem State.serving_updateLatches (k : Nat) : s.updateLatches.serving k = s.serving k := rfl
@[simp] theorem State.supported_updateLatches (k : Nat) : s.updateLatches.supported k = s.supported k := by
  rw [State.supported, State.supported, State.updateLatches_ports, State.updateLatches_portMin, List.length_map]

theorem State.port_map {t : State} {f : Port → Port} (h : t.ports = s.ports.map f) (h' : t.portMin = s.portMin)
    (k : Nat) : t.port k = if s.supported k then f (s.port k) else s.port k := by
  have hl : t.supported k = s.supported k := by simp [State.supported, h, h']
  by_cases hs : s.supported k = true
  · rw [if_pos hs, State.port_eq (hl.trans hs), State.port_eq hs]
    simp [h, h']
  · rw [if_neg hs, State.port_out (hl.trans (by simpa using hs)), State.port_out (by simpa using hs)]

/-- A port after the latch update (60_exceptions.md R234). -/
theorem State.port_updateLatches (k : Nat) :
    s.updateLatches.port k = if s.supported k then (s.port k).latch else s.port k :=
  State.port_map (s := s) (t := s.updateLatches) rfl rfl k

/-- The latch update changes nothing of a port but its latch. -/
theorem State.port_updateLatches_keep (k : Nat) :
    s.updateLatches.port k = { s.port k with pend := (s.updateLatches.port k).pend } := by
  rw [State.port_updateLatches]
  split <;> rfl

end Sys2Proof.Machine
end

