-- ==== Sys2Proof/Laws/Ops.lean ====
section
/-! SUPPORT. What each shared operation can do, said once: pins of a mask, the vectors, callback entry, the expiry check,
the services, the dispatch. Later proofs cite these lemmas instead of unfolding the operations. -/

namespace Sys2Proof.Machine

/-! ### Pins -/

theorem lowestPin_eq_none {b : Byte} : lowestPin b = none ↔ b = 0 := by revert b; decide

theorem lowestPin_eq_some {b : Byte} {i : Fin 8} :
    lowestPin b = some i ↔ b.getLsbD i.val = true ∧ ∀ j : Fin 8, j < i → b.getLsbD j.val = false := by
  revert b i; decide +kernel

theorem msb_eq_iff {m : Byte} {i : Fin 8} (h : m ≠ 0) :
    msb m = i ↔ m.getLsbD i.val = true ∧ ∀ j : Fin 8, i < j → m.getLsbD j.val = false := by
  revert m i; decide +kernel

theorem popcount_gt_one {m : Byte} :
    1 < popcount m ↔ ∃ i j : Fin 8, i ≠ j ∧ m.getLsbD i.val = true ∧ m.getLsbD j.val = true := by
  revert m; decide +kernel

theorem getLsbD_pinMask (i j : Fin 8) : (pinMask i).getLsbD j.val = decide (j = i) := by revert i j; decide

/-- The vector's value names the lowest flagged pin, and 0 names none (41_gpio.md R180, 60_exceptions.md R244). -/
theorem pinOfVector_vectorValue (b : Byte) : pinOfVector (vectorValue b) = lowestPin b := by revert b; decide +kernel

@[simp] theorem pinOfField_eq_none {b : Byte} : pinOfField b = none ↔ 8 ≤ b.toNat := by
  unfold pinOfField
  split
  · simp; omega
  · simp; omega

theorem pinOfField_eq_some {b : Byte} {i : Fin 8} : pinOfField b = some i ↔ b.toNat = i.val := by
  unfold pinOfField
  split
  · simp [Fin.ext_iff]
  · simp; omega

/-! ### Bits of the flags -/

theorem getLsbD_level (q : Port) (i : Fin 8) :
    q.level.getLsbD i.val = if q.dir.getLsbD i.val then q.out.getLsbD i.val else q.ext.getLsbD i.val := by
  cases h : q.dir.getLsbD i.val <;> simp_all [Port.level]

theorem getLsbD_edges (l0 l1 ies : Byte) (i : Fin 8) :
    (edges l0 l1 ies).getLsbD i.val =
      if ies.getLsbD i.val then l0.getLsbD i.val && !l1.getLsbD i.val else !l0.getLsbD i.val && l1.getLsbD i.val := by
  cases h : ies.getLsbD i.val <;> simp_all [edges]

variable {s : State}

theorem getLsbD_clearFlag (q : Port) (i j : Fin 8) :
    (q.clearFlag i).ifg.getLsbD j.val = (q.ifg.getLsbD j.val && decide (j ≠ i)) := by
  have h := getLsbD_pinMask i j
  simp at h
  simp [h]

/-! ### GSET on its port (41_gpio.md R175) -/

section
variable (q : Port) (sv : Bool) (m : Byte) (fl : GpioFlags) (cb noise : Byte)

@[simp] theorem Port.gset_out : (q.gset sv m fl cb noise).out = (Port.configure m fl q).out := by cases sv <;> rfl
@[simp] theorem Port.gset_dir : (q.gset sv m fl cb noise).dir = q.dir &&& ~~~m := by cases sv <;> rfl
@[simp] theorem Port.gset_ren : (q.gset sv m fl cb noise).ren = (Port.configure m fl q).ren := by cases sv <;> rfl
@[simp] theorem Port.gset_ies : (q.gset sv m fl cb noise).ies = (Port.configure m fl q).ies := by cases sv <;> rfl
@[simp] theorem Port.gset_ext : (q.gset sv m fl cb noise).ext = q.ext := by cases sv <;> rfl
@[simp] theorem Port.gset_pend : (q.gset sv m fl cb noise).pend = q.pend := by cases sv <;> rfl
@[simp] theorem Port.gset_bounceCnt : (q.gset sv m fl cb noise).bounceCnt = q.bounceCnt := by cases sv <;> rfl
@[simp] theorem Port.gset_spurCnt : (q.gset sv m fl cb noise).spurCnt = q.spurCnt := by cases sv <;> rfl
@[simp] theorem Port.gset_pins : (q.gset sv m fl cb noise).pins = (q.register (msb m) cb fl.debounce).pins := by
  cases sv <;> rfl
@[simp] theorem Port.gset_ie : (q.gset sv m fl cb noise).ie = if sv then q.ie else q.ie ||| m := by cases sv <;> rfl
@[simp] theorem Port.gset_savedIe : (q.gset sv m fl cb noise).savedIe = if sv then q.savedIe ||| m else q.savedIe := by
  cases sv <;> rfl
theorem Port.gset_ifg : (q.gset sv m fl cb noise).ifg =
    (q.ifg ||| edges q.level (Port.configure m fl q).level (Port.configure m fl q).ies ||| noise) &&&
      ~~~(pinMask (msb m)) := by
  cases sv <;> rfl

end

/-! ### The port dispatch -/

/-- The dispatch as one case split on the lowest flagged pin (60_exceptions.md R244). -/
theorem State.portService_eq (s : State) (p : Nat) :
    s.portService p =
      match lowestPin ((s.dispatchEnter p).port p).ifg with
      | none => (s.dispatchEnter p).dispatchSpurious p
      | some i => ((s.dispatchEnter p).modPort p (Port.clearFlag i)).dispatchPin p i := by
  unfold State.portService State.portVectorRead
  cases h : lowestPin ((s.dispatchEnter p).port p).ifg with
  | none => simp only [pinOfVector_vectorValue, h]
  | some i => simp only [pinOfVector_vectorValue, h]

/-! ### Timer services -/

/-- What TIV answers: 0 and no change where no channel of 1..N-1 is matched, else the lowest such channel, whose flag is
cleared (60_exceptions.md R239). -/
theorem State.timerVectorRead_cases (s : State) :
    (s.timerVectorRead = (0, s) ∧ ∀ c, 1 ≤ c → c < s.n → (s.chan c).request = false) ∨
    ∃ c, 1 ≤ c ∧ c < s.n ∧ (s.chan c).request = true ∧ (∀ k, 1 ≤ k → k < c → (s.chan k).request = false) ∧
      s.timerVectorRead = (2 * c, s.modChan c Channel.clearFlag) := by
  unfold State.timerVectorRead
  cases h : (List.range s.n).find? (fun c => decide (1 ≤ c) && (s.chan c).request) with
  | none =>
    refine .inl ⟨rfl, fun c hc hn => ?_⟩
    rw [List.find?_range_eq_none] at h
    simpa [hc] using h c hn
  | some c =>
    rw [List.find?_range_eq_some] at h
    obtain ⟨h1, h2, h3⟩ := h
    simp only [Bool.and_eq_true, decide_eq_true_eq] at h1
    exact .inr ⟨c, h1.1, by simpa using h2, h1.2, fun k hk hkc => by simpa [hk] using h3 k hkc, rfl⟩

/-- What the CMPV service does (60_exceptions.md R242). -/
theorem State.cmpvService_cases (s : State) :
    (s.cmpvService = { s with cpendv := false }.countTimerSpurious ∧
      ∀ c, 1 ≤ c → c < s.n → (s.chan c).request = false) ∨
    ∃ c, 1 ≤ c ∧ c < s.n ∧ (s.chan c).request = true ∧ (∀ k, 1 ≤ k → k < c → (s.chan k).request = false) ∧
      s.cmpvService = ({ s with cpendv := false }.modChan c Channel.clearFlag).expiryCheck c := by
  rcases State.timerVectorRead_cases { s with cpendv := false } with ⟨h, hn⟩ | ⟨c, h1, h2, h3, h4, h⟩
  · exact .inl ⟨by simp [State.cmpvService, h], hn⟩
  · refine .inr ⟨c, h1, h2, h3, h4, ?_⟩
    have hc : 2 * c ≠ 0 := by omega
    simp [State.cmpvService, h]
    intro h0; omega

/-! ### Turns -/

/-- What one step can do, by the turn that comes next (00_scope.md R11). -/
theorem step_cases {s t : State} (h : step s = .next t) :
    (∃ cmd data i u, s.nextTurn = .host cmd data ∧ decode cmd data = .ok i ∧ exec i s.popTurn = .next u ∧
      t = u.commandEnd cmd data) ∨
    (∃ cmd data e, s.nextTurn = .host cmd data ∧ decode cmd data = .error e ∧ t = s.popTurn.illegal.commandEnd cmd data) ∨
    (s.nextTurn = .tick ∧ t = s.popTurn.tickTurn) ∨
    (∃ p v, s.nextTurn = .pin p v ∧ t = s.popTurn.pinTurn p v) ∨
    (∃ svc, s.nextTurn = .engine svc ∧ t = s.popTurn.engineTurn svc) := by
  unfold step at h
  split at h
  · rename_i cmd data hn
    unfold runCommand at h
    cases hd : decode cmd data with
    | error e =>
      simp only [hd, afterCommand, Host.Outcome.next.injEq] at h
      exact .inr (.inl ⟨cmd, data, e, hn, hd, h.symm⟩)
    | ok i =>
      cases hx : exec i s.popTurn with
      | next u =>
        simp only [hd, hx, afterCommand, Host.Outcome.next.injEq] at h
        exact .inl ⟨cmd, data, i, u, hn, hd, hx, h.symm⟩
      | fault r => simp [hd, hx, afterCommand] at h
      | refused r => simp [hd, hx, afterCommand] at h
  · rename_i hn
    exact .inr (.inr (.inl ⟨hn, by simpa using h.symm⟩))
  · rename_i p v hn
    exact .inr (.inr (.inr (.inl ⟨p, v, hn, by simpa using h.symm⟩)))
  · rename_i svc hn
    exact .inr (.inr (.inr (.inr ⟨svc, hn, by simpa using h.symm⟩)))

end Sys2Proof.Machine
end

