-- ==== Sys2Proof/Laws/Commands.lean ====
section
/-! SUPPORT. What a command can do, said once: it answers, it raises UNINIT, or it has one of the effects below and
answers OK. A proof about every command is a case split over `Effect`. -/

namespace Sys2Proof.Machine

@[simp] theorem State.done_eq_next {s t : State} {v : Long} : s.done v = .next t ↔ s.respond .ok v = t := by
  simp [State.done]

@[simp] theorem State.fail_eq_next {s t : State} {st : Status} : s.fail st = .next t ↔ s.respond st 0 = t := by
  simp [State.fail]

@[simp] theorem State.raiseUninit_eq_next {s t : State} :
    s.raiseUninit = .next t ↔ { s with faultUninit := true }.respond .notInitialised 0 = t := by
  simp [State.raiseUninit]

/-- The commands that change more than the response, with the state each leaves before it responds. -/
inductive Effect (s : State) : Instr → State → Prop
  /-- 40_timer.md R131 -/
  | tinit : Effect s .tinit
      { s with run := true, cnt := 0, round := 0, ovf := false, channels := s.channels.map Channel.disarm }
  /-- 40_timer.md R134 -/
  | tset {ch : Nibble} {cb : Byte} {cmp : Half} {r : Word} (run : s.run = true) (hc : ch.toNat < s.n) :
      Effect s (.tset ch cb cmp r) (s.modChan ch.toNat (Channel.arm cmp r cb))
  /-- 40_timer.md R135 -/
  | tunset {ch : Nibble} (hc : ch.toNat < s.n) : Effect s (.tunset ch) (s.disarm ch.toNat)
  /-- 41_gpio.md R174 -/
  | ginit : Effect s .ginit { s with ports := s.ports.map Port.clearPins, ginitDone := true }
  /-- 41_gpio.md R175 with DISABLE -/
  | gsetDisable {port : Nibble} {mask flags cb : Byte} (hg : s.ginitDone = true)
      (hs : s.supported port.toNat = true) :
      Effect s (.gset port mask flags cb) (s.ieWrite port.toNat (s.ieRead port.toNat &&& ~~~mask))
  /-- 41_gpio.md R175 -/
  | gset {port : Nibble} {mask flags cb : Byte} (hg : s.ginitDone = true) (hs : s.supported port.toNat = true) :
      Effect s (.gset port mask flags cb) (s.gsetConfigure port.toNat mask (decodeFlags flags) cb)
  /-- 41_gpio.md R177, R180 -/
  | vector {port : Nibble} {i : Fin 8} (hs : s.supported port.toNat = true)
      (hi : lowestPin (s.port port.toNat).ifg = some i) :
      Effect s (.prd port .iv) (s.modPort port.toNat (Port.clearFlag i))
  /-- 41_gpio.md R178 -/
  | pwr {port : Nibble} {reg : PortReg} {v : Byte} (hw : reg.writable = true)
      (hs : s.supported port.toNat = true) : Effect s (.pwr port reg v) (s.writePortReg port.toNat v reg)
  /-- 42_control.md R211 -/
  | intctl {e : Bool} : Effect s (.intctl e) { s with gie := e }
  /-- 42_control.md R212 -/
  | timerReturn {c : Nat} {cb : Byte} (he : s.eng = .waitTimer c cb) : Effect s .cbdone { s with eng := .idle }
  /-- 42_control.md R212 -/
  | gpioReturn {p : Nat} {i : Fin 8} {cb : Byte} (he : s.eng = .waitGpio p i cb) :
      Effect s .cbdone (s.dispatchFinish p)

/-- The commands that a unit's initialisation must precede (60_exceptions.md R231). -/
def NeedsInit : Instr → Prop
  | .tset _ _ _ _ | .gset _ _ _ _ => True
  | _ => False

/-- What a command can do. -/
theorem exec_cases {i : Instr} {s u : State} (h : exec i s = .next u) :
    (∃ st v, u = s.respond st v) ∨
    (NeedsInit i ∧ u = { s with faultUninit := true }.respond .notInitialised 0) ∨
    ∃ t v, Effect s i t ∧ u = t.respond .ok v := by
  cases i <;> simp only [exec] at h
  case nop => exact .inl ⟨_, _, Eq.symm (by simpa [execNop] using h)⟩
  case tnow => exact .inl ⟨_, _, Eq.symm (by simpa [execTnow] using h)⟩
  case tnowx => exact .inl ⟨_, _, Eq.symm (by simpa [execTnowx] using h)⟩
  case tinit => exact .inr (.inr ⟨_, _, .tinit, Eq.symm (by simpa [execTinit] using h)⟩)
  case ginit => exact .inr (.inr ⟨_, _, .ginit, Eq.symm (by simpa [execGinit] using h)⟩)
  case intctl e => exact .inr (.inr ⟨_, _, .intctl, Eq.symm (by simpa [execIntctl] using h)⟩)
  case tset ch cb cmp r =>
    unfold execTset at h
    split_ifs at h with h1 h2
    · exact .inr (.inl ⟨trivial, Eq.symm (by simpa using h)⟩)
    · exact .inl ⟨_, _, Eq.symm (by simpa using h)⟩
    · exact .inr (.inr ⟨_, _, .tset (by simpa using h1) (by omega), Eq.symm (by simpa using h)⟩)
  case tunset ch =>
    unfold execTunset at h
    split_ifs at h with h1
    · exact .inl ⟨_, _, Eq.symm (by simpa using h)⟩
    · exact .inr (.inr ⟨_, _, .tunset (by omega), Eq.symm (by simpa using h)⟩)
  case tquery ch =>
    unfold execTquery at h
    split_ifs at h <;> exact .inl ⟨_, _, Eq.symm (by simpa using h)⟩
  case gset port mask flags cb =>
    unfold execGset at h
    split_ifs at h with h1 h2 h3 h4 h5
    · exact .inl ⟨_, _, Eq.symm (by simpa using h)⟩
    · exact .inr (.inl ⟨trivial, Eq.symm (by simpa using h)⟩)
    · exact .inl ⟨_, _, Eq.symm (by simpa using h)⟩
    · exact .inl ⟨_, _, Eq.symm (by simpa using h)⟩
    · exact .inr (.inr ⟨_, _, .gsetDisable (by simpa using h2) (by simpa using h3), Eq.symm (by simpa using h)⟩)
    · exact .inr (.inr ⟨_, _, .gset (by simpa using h2) (by simpa using h3), Eq.symm (by simpa using h)⟩)
  case gquery port pin =>
    unfold execGquery at h
    split_ifs at h
    · exact .inl ⟨_, _, Eq.symm (by simpa using h)⟩
    · split at h <;> exact .inl ⟨_, _, Eq.symm (by simpa using h)⟩
  case prd port reg =>
    unfold execPrd at h
    split_ifs at h with h1
    · exact .inl ⟨_, _, Eq.symm (by simpa using h)⟩
    · cases reg
      case iv =>
        cases hl : lowestPin (s.port port.toNat).ifg with
        | none => exact .inl ⟨_, _, Eq.symm (by simpa [State.readPortReg, State.portVectorRead, hl] using h)⟩
        | some i =>
          exact .inr (.inr ⟨_, _, .vector (by simpa using h1) hl,
            Eq.symm (by simpa [State.readPortReg, State.portVectorRead, hl] using h)⟩)
      all_goals exact .inl ⟨_, _, Eq.symm (by simpa [State.readPortReg] using h)⟩
  case pwr port reg v =>
    unfold execPwr at h
    split_ifs at h with h1 h2
    · exact .inl ⟨_, _, Eq.symm (by simpa using h)⟩
    · exact .inl ⟨_, _, Eq.symm (by simpa using h)⟩
    · exact .inr (.inr ⟨_, _, .pwr (by simpa using h1) (by simpa using h2), Eq.symm (by simpa using h)⟩)
  case cbdone =>
    unfold execCbdone at h
    split at h
    · exact .inl ⟨_, _, Eq.symm (by simpa using h)⟩
    · rename_i he
      exact .inr (.inr ⟨_, _, .timerReturn he, Eq.symm (by simpa using h)⟩)
    · rename_i he
      exact .inr (.inr ⟨_, _, .gpioReturn he, Eq.symm (by simpa using h)⟩)
  case diag port sel =>
    cases sel <;> unfold execDiag at h <;> split_ifs at h <;> exact .inl ⟨_, _, Eq.symm (by simpa using h)⟩

/-- A register write is one change of the port, and at most one draw (41_gpio.md R178). -/
theorem State.writePortReg_eq (s : State) (p : Nat) (v : Byte) (reg : PortReg) :
    s.writePortReg p v reg =
      match reg with
      | .out => (s.modPort p (fun q => (Port.change (Port.putOut v) q).orFlags s.spuriousBits)).countDraw
      | .dir => (s.modPort p (fun q => (Port.change (Port.putDir v) q).orFlags s.spuriousBits)).countDraw
      | .ren => (s.modPort p (fun q => (q.putRen v).orFlags s.spuriousBits)).countDraw
      | .ies => s.modPort p (Port.putIes v)
      | .ie => s.modPort p (Port.writeIe (s.serving p) v)
      | .ifg => s.modPort p (Port.putIfg v)
      | .inp | .iv => s := by
  cases reg <;> simp only [State.writePortReg, State.spurious, State.modPort_modPort] <;> rfl

/-- A register write changes the named port alone, by a change that keeps the external levels, the request latch, the pin
table and the counters, and keeps IE while a callback of the port is outstanding (41_gpio.md R172, R178). -/
theorem State.writePortReg_modPort (s : State) (p : Nat) (v : Byte) (reg : PortReg) :
    ∃ f : Port → Port,
      (s.writePortReg p v reg = s.modPort p f ∨ s.writePortReg p v reg = (s.modPort p f).countDraw) ∧
      ∀ q, (f q).ext = q.ext ∧ (f q).pend = q.pend ∧ (f q).pins = q.pins ∧ (f q).bounceCnt = q.bounceCnt ∧
        (f q).spurCnt = q.spurCnt ∧ (s.serving p = true → (f q).ie = q.ie) := by
  rw [State.writePortReg_eq]
  have keep : s = s.modPort p (fun q => q) := by
    by_cases h : s.supported p = true
    · apply State.ext <;> simp [h, State.port_eq h]
    · rw [State.modPort_out _ (by simpa using h)]
  cases reg
  case inp => exact ⟨fun q => q, .inl keep, fun q => ⟨rfl, rfl, rfl, rfl, rfl, fun _ => rfl⟩⟩
  case iv => exact ⟨fun q => q, .inl keep, fun q => ⟨rfl, rfl, rfl, rfl, rfl, fun _ => rfl⟩⟩
  case ie => exact ⟨_, .inl rfl, fun q => ⟨by simp, by simp, by simp, by simp, by simp, fun h => by simp [h]⟩⟩
  case ies => exact ⟨_, .inl rfl, fun q => ⟨rfl, rfl, rfl, rfl, rfl, fun _ => rfl⟩⟩
  case ifg => exact ⟨_, .inl rfl, fun q => ⟨rfl, rfl, rfl, rfl, rfl, fun _ => rfl⟩⟩
  case out => exact ⟨_, .inr rfl, fun q => ⟨rfl, rfl, rfl, rfl, rfl, fun _ => rfl⟩⟩
  case dir => exact ⟨_, .inr rfl, fun q => ⟨rfl, rfl, rfl, rfl, rfl, fun _ => rfl⟩⟩
  case ren => exact ⟨_, .inr rfl, fun q => ⟨rfl, rfl, rfl, rfl, rfl, fun _ => rfl⟩⟩

@[simp] theorem State.length_writePortReg (s : State) (p : Nat) (v : Byte) (reg : PortReg) :
    (s.writePortReg p v reg).ports.length = s.ports.length := by
  obtain ⟨f, h | h, _⟩ := s.writePortReg_modPort p v reg <;> rw [h]
  · exact State.length_modPort p f
  · exact State.length_modPort p f

/-- The fields that no command's effect writes. -/
theorem Effect.frame {s t : State} {i : Instr} (h : Effect s i t) :
    t.faultUninit = s.faultUninit ∧ t.faultOvfMissed = s.faultOvfMissed ∧ t.settings = s.settings ∧
      t.portMin = s.portMin ∧ t.trace = s.trace ∧ t.agenda = s.agenda ∧ t.turns = s.turns ∧
      t.cpend0 = s.cpend0 ∧ t.cpendv = s.cpendv ∧ t.tspurCnt = s.tspurCnt ∧
      t.channels.length = s.channels.length ∧ t.ports.length = s.ports.length := by
  cases h
  case pwr port reg v hw hs =>
    obtain ⟨f, h | h, _⟩ := s.writePortReg_modPort port.toNat v reg <;> rw [h] <;>
      exact ⟨rfl, rfl, rfl, rfl, rfl, rfl, rfl, rfl, rfl, rfl, rfl, State.length_modPort _ f⟩
  case gpioReturn => exact ⟨rfl, rfl, rfl, rfl, rfl, rfl, rfl, rfl, rfl, rfl, rfl, State.length_modPort _ _⟩
  case gset => exact ⟨rfl, rfl, rfl, rfl, rfl, rfl, rfl, rfl, rfl, rfl, rfl, State.length_modPort _ _⟩
  case gsetDisable => exact ⟨rfl, rfl, rfl, rfl, rfl, rfl, rfl, rfl, rfl, rfl, rfl, State.length_modPort _ _⟩
  case vector => exact ⟨rfl, rfl, rfl, rfl, rfl, rfl, rfl, rfl, rfl, rfl, rfl, State.length_modPort _ _⟩
  all_goals simp

end Sys2Proof.Machine
end

