-- ==== Sys2Proof/Laws/Word.lean ====
section
/-! SUPPORT. The bits of a placed field (30_encoding.md R103), cited wherever a word is put together from fields. -/

namespace Sys2Proof

/-- Two bit vectors are equal when their bits are. -/
theorem bits_ext {n : Nat} {a b : BitVec n} (h : ∀ k, k < n → a.getLsbD k = b.getLsbD k) : a = b :=
  BitVec.eq_of_getLsbD_eq (fun k hk => h k hk)

theorem getLsbD_place {w : Nat} (n : Nat) (v : BitVec w) (lo k : Nat) :
    (place n v lo).getLsbD k = (decide (k < n) && decide (lo ≤ k) && v.getLsbD (k - lo)) := by
  by_cases h : k < n <;> by_cases h' : lo ≤ k <;> simp [place, h, h']

@[simp] theorem getElem_place {w : Nat} (n : Nat) (v : BitVec w) (lo k : Nat) (hk : k < n) :
    (place n v lo)[k] = (decide (lo ≤ k) && v.getLsbD (k - lo)) := by
  rw [← BitVec.getLsbD_eq_getElem, getLsbD_place]; simp [hk]

@[simp] theorem getLsbD_bit (b : Bool) (k : Nat) : (bit b).getLsbD k = (decide (k = 0) && b) := by
  cases k <;> simp [bit]

@[simp] theorem getElem_placeBit (n : Nat) (b : Bool) (lo k : Nat) (hk : k < n) :
    (placeBit n b lo)[k] = (decide (k = lo) && b) := by
  rw [placeBit, getElem_place, getLsbD_bit, ← Bool.and_assoc]
  congr 1
  by_cases h : k = lo
  · simp [h]
  · simp [h]; omega

end Sys2Proof
end

