-- ==== Sys2Proof/Laws/PerInstr.lean ====
section
/-! SUPPORT. A law of every command's syntax: a well-formed command's CMD word fits its row of opcode_table.json
(30_encoding.md R106, R112: `CMD AND mask = match`). -/

namespace Sys2Proof.Laws.TableRow

/-- The mask and match of the command's row in opcode_table.json. -/
def row : Instr → Word × Word
  | .nop => (0xFFFFFFFF, 0x00000000)
  | .tinit => (0xFFFFFFFF, 0x10000000)
  | .tnow => (0xFFFFFFFF, 0x20000000)
  | .tnowx => (0xFFFFFFFF, 0x30000000)
  | .tset _ _ _ _ => (0xF0000000, 0x40000000)
  | .tunset _ => (0xF0FFFFFF, 0x50000000)
  | .tquery _ => (0xF0FFFFFF, 0x60000000)
  | .ginit => (0xFFFFFFFF, 0x70000000)
  | .gset _ _ _ _ => (0xF000C000, 0x80000000)
  | .gquery _ _ => (0xF000FFFF, 0x90000000)
  | .prd _ _ => (0xF08FFFFF, 0xA0000000)
  | .pwr _ _ _ => (0xF08FFF00, 0xB0000000)
  | .intctl _ => (0xFFFFFFFE, 0xC0000000)
  | .cbdone => (0xFFFFFFFF, 0xD0000000)
  | .diag _ _ => (0xF00FFFFF, 0xE0000000)

/-- A well-formed command's word fits its row. -/
def Statement (i : Instr) : Prop := i.wellFormed = true → encodeCmd i &&& (row i).1 = (row i).2

/-- FLAGS bits 7:6 of a well-formed GSET are 0 (30_encoding.md R102). -/
theorem gset_reserved {port : Nibble} {mask flags cb : Byte} (h : (Instr.gset port mask flags cb).wellFormed = true) :
    flags.getLsbD 6 = false ∧ flags.getLsbD 7 = false := by
  have h' : flags.extractLsb' 6 2 = 0 := by simpa [Instr.wellFormed, flagsLegal] using h
  have h6 := congrArg (BitVec.getLsbD · 0) h'
  have h7 := congrArg (BitVec.getLsbD · 1) h'
  simp at h6 h7
  exact ⟨by simpa using h6, by simpa using h7⟩

/-- REG codes are 0 to 7 (30_encoding.md R109). -/
theorem reg_code_high (reg : PortReg) : reg.code.getLsbD 3 = false := by cases reg <;> decide

theorem nop : Statement .nop := fun _ => by decide
theorem tinit : Statement .tinit := fun _ => by decide
theorem tnow : Statement .tnow := fun _ => by decide
theorem tnowx : Statement .tnowx := fun _ => by decide
theorem ginit : Statement .ginit := fun _ => by decide
theorem cbdone : Statement .cbdone := fun _ => by decide

theorem intctl (e : Bool) : Statement (.intctl e) := fun _ => by cases e <;> decide

theorem tset (ch : Nibble) (cb : Byte) (cmp : Half) (targetRound : Word) : Statement (.tset ch cb cmp targetRound) := fun _ => by
  apply bits_ext
  intro k hk
  interval_cases k <;> simp_all [encodeCmd, row, placeOp]

theorem tunset (ch : Nibble) : Statement (.tunset ch) := fun _ => by
  apply bits_ext
  intro k hk
  interval_cases k <;> simp_all [encodeCmd, row, placeOp]

theorem tquery (ch : Nibble) : Statement (.tquery ch) := fun _ => by
  apply bits_ext
  intro k hk
  interval_cases k <;> simp_all [encodeCmd, row, placeOp]

theorem gset (port : Nibble) (mask flags cb : Byte) : Statement (.gset port mask flags cb) := fun h => by
  apply bits_ext
  intro k hk
  have := gset_reserved h
  interval_cases k <;> simp_all [encodeCmd, row, placeOp]

theorem gquery (port : Nibble) (pin : Byte) : Statement (.gquery port pin) := fun _ => by
  apply bits_ext
  intro k hk
  interval_cases k <;> simp_all [encodeCmd, row, placeOp]

theorem prd (port : Nibble) (reg : PortReg) : Statement (.prd port reg) := fun _ => by
  apply bits_ext
  intro k hk
  have := reg_code_high reg
  interval_cases k <;> simp_all [encodeCmd, row, placeOp]

theorem pwr (port : Nibble) (reg : PortReg) (value : Byte) : Statement (.pwr port reg value) := fun _ => by
  apply bits_ext
  intro k hk
  have := reg_code_high reg
  interval_cases k <;> simp_all [encodeCmd, row, placeOp]

theorem diag (port : Nibble) (sel : DiagSel) : Statement (.diag port sel) := fun _ => by
  apply bits_ext
  intro k hk
  interval_cases k <;> simp_all [encodeCmd, row, placeOp]

end Sys2Proof.Laws.TableRow
end

