-- ==== Sys2Proof/Laws/Services.lean ====
section
/-! SUPPORT. What each service can do, said once: the expiry check, the overflow and CMP0 services, the port dispatch,
and when a service is enabled. -/

namespace Sys2Proof.Machine

variable (s : State)

/-! ### Timer services -/

/-- What the expiry check does (60_exceptions.md R240, R243). -/
theorem State.expiryCheck_cases (c : Nat) :
    ((s.chan c).armed = false ∧ s.expiryCheck c = s.countTimerSpurious) ∨
    ((s.chan c).armed = true ∧ 0 < roundDelta (s.chan c).targetRound s.round ∧
      s.expiryCheck c = s.modChan c Channel.clearFlag) ∨
    ((s.chan c).armed = true ∧ roundDelta (s.chan c).targetRound s.round ≤ 0 ∧ (s.chan c).callback = 0 ∧
      s.expiryCheck c = s.disarm c) ∨
    ((s.chan c).armed = true ∧ roundDelta (s.chan c).targetRound s.round ≤ 0 ∧ (s.chan c).callback ≠ 0 ∧
      s.expiryCheck c =
        (s.disarm c).enterCallback (s.chan c).callback (.timer c) (.waitTimer c (s.chan c).callback)) := by
  unfold State.expiryCheck State.timerInvoke
  by_cases ha : (s.chan c).armed = false
  · exact .inl ⟨ha, if_pos ha⟩
  · rw [if_neg ha]
    by_cases hd : roundDelta (s.chan c).targetRound s.round ≤ 0
    · rw [if_pos hd]
      by_cases hc : (s.chan c).callback = 0
      · exact .inr (.inr (.inl ⟨by simpa using ha, hd, hc, if_pos hc⟩))
      · exact .inr (.inr (.inr ⟨by simpa using ha, hd, hc, if_neg hc⟩))
    · exact .inr (.inl ⟨by simpa using ha, by omega, if_neg hd⟩)

/-- A change of one channel leaves its rounds and its arming alone when the channel's own change does. -/
theorem State.expiryCheck_reads (c : Nat) (f : Channel → Channel)
    (hf : ∀ ch, (f ch).armed = ch.armed ∧ (f ch).targetRound = ch.targetRound ∧ (f ch).callback = ch.callback) :
    ((s.modChan c f).chan c).armed = (s.chan c).armed ∧
      ((s.modChan c f).chan c).targetRound = (s.chan c).targetRound ∧
      ((s.modChan c f).chan c).callback = (s.chan c).callback := by
  by_cases h : c < s.n
  · rw [State.chan_modChan c f h, if_pos rfl]
    exact hf _
  · rw [State.chan_out (s := s) (by omega), State.chan_out (by simpa using h)]
    exact ⟨rfl, rfl, rfl⟩

/-! ### The port dispatch -/

@[simp] theorem Port.clearFlag_clearFlag (i : Fin 8) (q : Port) : (q.clearFlag i).clearFlag i = q.clearFlag i := by
  refine Port.eq_of_fields rfl rfl rfl rfl rfl ?_ rfl rfl rfl rfl rfl rfl
  simp only [Port.clearFlag_ifg, BitVec.and_assoc, BitVec.and_self]

/-- The port as the dispatch of pin `i` finds it: entered, with the flag of `i` cleared (60_exceptions.md R244). -/
def Port.dispatched (i : Fin 8) (q : Port) : Port := q.enter.clearFlag i

variable {s}

/-- An invocation of a pin callback after a change `k` of its port (60_exceptions.md R249, R250). -/
theorem State.gpioInvoke_modPort {p : Nat} (hs : s.supported p = true) (i : Fin 8) (k : Port → Port) :
    (s.modPort p k).gpioInvoke p i =
      if (k (s.port p)).pins[i].cb = 0 then (s.modPort p (fun q => (k q).finish)).setEng .idle
      else (s.modPort p k).enterCallback (k (s.port p)).pins[i].cb (.gpio p i)
        (.waitGpio p i (k (s.port p)).pins[i].cb) := by
  rw [State.gpioInvoke, State.port_modPort p k hs, if_pos rfl, State.dispatchFinish, State.modPort_modPort]

/-- What the port dispatch does (60_exceptions.md R244 to R250): the sentinel, a pin not enabled, a bounce, or an accepted
event of the lowest flagged pin, which is swallowed where the pin has no callback. -/
theorem State.portService_cases {p : Nat} (hs : s.supported p = true) :
    (lowestPin (s.port p).ifg = none ∧
      s.portService p = (s.modPort p (fun q => q.enter.countSpurious.finish)).setEng .idle) ∨
    ∃ i, lowestPin (s.port p).ifg = some i ∧
      (((s.port p).ie.getLsbD i.val = false ∧
        s.portService p = (s.modPort p (fun q => (q.dispatched i).countSpurious.finish)).setEng .idle) ∨
      ((s.port p).ie.getLsbD i.val = true ∧ (s.port p).pins[i].deb = true ∧
        ¬s.settings.d < s.cnt - (s.port p).pins[i].last ∧
        s.portService p = (s.modPort p (fun q => (q.dispatched i).countBounce.finish)).setEng .idle) ∨
      ((s.port p).ie.getLsbD i.val = true ∧ ∃ k : Port → Port,
        (((s.port p).pins[i].deb = false ∧ k = Port.dispatched i) ∨
          ((s.port p).pins[i].deb = true ∧ s.settings.d < s.cnt - (s.port p).pins[i].last ∧
            k = fun q => (q.dispatched i).stamp i s.cnt)) ∧
        (((s.port p).pins[i].cb = 0 ∧ s.portService p = (s.modPort p (fun q => (k q).finish)).setEng .idle) ∨
          ((s.port p).pins[i].cb ≠ 0 ∧ s.portService p =
            (s.modPort p k).enterCallback (s.port p).pins[i].cb (.gpio p i)
              (.waitGpio p i (s.port p).pins[i].cb))))) := by
  have hi : ((s.dispatchEnter p).port p).ifg = (s.port p).ifg := by
    rw [State.dispatchEnter, State.port_modPort p _ hs, if_pos rfl, Port.enter_ifg]
  rw [State.portService_eq, hi]
  cases hl : lowestPin (s.port p).ifg with
  | none =>
    refine .inl ⟨rfl, ?_⟩
    simp only [State.dispatchSpurious, State.dispatchFinish, State.dispatchEnter, State.modPort_modPort]
  | some i =>
    refine .inr ⟨i, rfl, ?_⟩
    have hd : (s.dispatchEnter p).modPort p (Port.clearFlag i) = s.modPort p (Port.dispatched i) := by
      rw [State.dispatchEnter, State.modPort_modPort]; rfl
    have hd2 : (s.modPort p (Port.dispatched i)).modPort p (Port.clearFlag i) = s.modPort p (Port.dispatched i) := by
      rw [State.modPort_modPort]; simp only [Port.dispatched, Port.clearFlag_clearFlag]; rfl
    have hq : (s.modPort p (Port.dispatched i)).port p = (s.port p).dispatched i := by
      rw [State.port_modPort p _ hs, if_pos rfl]
    have hs' : (s.modPort p (Port.dispatched i)).supported p = true := by simpa using hs
    have pins : ((s.port p).dispatched i).pins = (s.port p).pins := rfl
    have saved : ((s.port p).dispatched i).savedIe = (s.port p).ie := rfl
    simp only [hd, State.dispatchPin, hd2, hq, pins, saved, State.modPort_settings, State.modPort_cnt]
    by_cases he : (s.port p).ie.getLsbD i.val = false
    · refine .inl ⟨he, ?_⟩
      rw [if_pos he, State.dispatchSpurious, State.dispatchFinish, State.modPort_modPort, State.modPort_modPort]
    · have he' : (s.port p).ie.getLsbD i.val = true := by simpa using he
      rw [if_neg he]
      by_cases hb : (s.port p).pins[i].deb = false
      · refine .inr (.inr ⟨he', Port.dispatched i, .inl ⟨hb, rfl⟩, ?_⟩)
        rw [if_pos hb, State.gpioInvoke_modPort hs, pins]
        by_cases hc : (s.port p).pins[i].cb = 0
        · exact .inl ⟨hc, if_pos hc⟩
        · exact .inr ⟨hc, if_neg hc⟩
      · have hb' : (s.port p).pins[i].deb = true := by simpa using hb
        rw [if_neg hb]
        by_cases ht : s.settings.d < s.cnt - (s.port p).pins[i].last
        · refine .inr (.inr ⟨he', fun q => (q.dispatched i).stamp i s.cnt, .inr ⟨hb', ht, rfl⟩, ?_⟩)
          have cb : (((s.port p).dispatched i).stamp i s.cnt).pins[i].cb = (s.port p).pins[i].cb := by
            simp [Port.stamp, pins]
          rw [if_pos ht, State.modPort_modPort, State.gpioInvoke_modPort hs, cb]
          by_cases hc : (s.port p).pins[i].cb = 0
          · exact .inl ⟨hc, if_pos hc⟩
          · exact .inr ⟨hc, if_neg hc⟩
        · refine .inr (.inl ⟨he', hb', ht, ?_⟩)
          rw [if_neg ht, State.dispatchBounce, State.dispatchFinish, State.modPort_modPort, State.modPort_modPort]

/-! ### Enabled services -/

theorem State.enabled_idle {svc : Service} (h : s.enabled svc = true) : s.eng = .idle ∧ s.gie = true := by
  simp only [State.enabled, Bool.and_eq_true, beq_iff_eq] at h
  exact h.1

theorem State.enabled_requested {svc : Service} (h : s.enabled svc = true) : svc ∈ s.requested := by
  simp only [State.enabled, Bool.and_eq_true] at h
  have h' := h.2
  cases hso : s.settings.serviceOrder
  · rw [hso] at h'; simpa using h'
  · rw [hso] at h'
    exact List.mem_of_head? (by simpa using h')

/-- The requested services (60_exceptions.md R235). -/
theorem State.mem_requested {svc : Service} :
    svc ∈ s.requested ↔
      match svc with
      | .overflow => s.ovf = true
      | .cmp0 => s.cpend0 = true
      | .cmpv => s.cpendv = true
      | .port p => s.supported p = true ∧ (s.port p).pend = true := by
  cases svc with
  | overflow => simp [State.requested]
  | cmp0 => simp [State.requested]
  | cmpv => simp [State.requested]
  | port p =>
    simp only [State.requested, List.mem_append, List.mem_map, List.mem_filter, List.mem_range]
    constructor
    · rintro (((h | h) | h) | ⟨k, ⟨hk, hp⟩, he⟩)
      · split at h <;> simp at h
      · split at h <;> simp at h
      · split at h <;> simp at h
      · cases he
        exact ⟨State.supported_iff.mpr ⟨by omega, by simpa using hk⟩, hp⟩
    · rintro ⟨hs, hp⟩
      have h := State.supported_iff.mp hs
      exact .inr ⟨p - s.portMin, ⟨h.2, by rwa [Nat.add_sub_cancel' h.1]⟩, by rw [Nat.add_sub_cancel' h.1]⟩

/-! ### What a service writes -/

variable (s)

/-- The expiry check writes the channels, TSPUR_CNT, ENG and the trace (60_exceptions.md R240, R243). -/
theorem State.expiryCheck_frame (c : Nat) :
    s.expiryCheck c = { s with
      channels := (s.expiryCheck c).channels, tspurCnt := (s.expiryCheck c).tspurCnt
      eng := (s.expiryCheck c).eng, trace := (s.expiryCheck c).trace } ∧
    (s.expiryCheck c).channels.length = s.channels.length := by
  rcases s.expiryCheck_cases c with ⟨_, e⟩ | ⟨_, _, e⟩ | ⟨_, _, _, e⟩ | ⟨_, _, _, e⟩ <;> rw [e] <;>
    exact ⟨rfl, by simp⟩

/-- The overflow service clears OVF, increments ROUND and is otherwise an expiry check (60_exceptions.md R238). -/
theorem State.overflowService_frame :
    s.overflowService = { s with
      ovf := false, round := s.round + 1
      channels := s.overflowService.channels, tspurCnt := s.overflowService.tspurCnt
      eng := s.overflowService.eng, trace := s.overflowService.trace } ∧
    s.overflowService.channels.length = s.channels.length := by
  unfold State.overflowService
  dsimp only
  split
  · obtain ⟨e, h⟩ := State.expiryCheck_frame { s with ovf := false, round := s.round + 1 } 0
    exact ⟨by rw [e], h⟩
  · exact ⟨rfl, rfl⟩

/-- The CMP0 service clears CPEND0 and is otherwise an expiry check (60_exceptions.md R241). -/
theorem State.cmp0Service_frame :
    s.cmp0Service = { s with
      cpend0 := false, channels := s.cmp0Service.channels, tspurCnt := s.cmp0Service.tspurCnt
      eng := s.cmp0Service.eng, trace := s.cmp0Service.trace } ∧
    s.cmp0Service.channels.length = s.channels.length := by
  unfold State.cmp0Service
  dsimp only
  split
  · obtain ⟨e, h⟩ := State.expiryCheck_frame ({ s with cpend0 := false }.modChan 0 Channel.clearFlag) 0
    exact ⟨by rw [e]; rfl, h.trans (by simp)⟩
  · exact ⟨rfl, rfl⟩

/-- The CMPV service clears CPENDV and is otherwise an expiry check (60_exceptions.md R242). -/
theorem State.cmpvService_frame :
    s.cmpvService = { s with
      cpendv := false, channels := s.cmpvService.channels, tspurCnt := s.cmpvService.tspurCnt
      eng := s.cmpvService.eng, trace := s.cmpvService.trace } ∧
    s.cmpvService.channels.length = s.channels.length := by
  rcases s.cmpvService_cases with ⟨e, _⟩ | ⟨c, _, _, _, _, e⟩ <;> rw [e]
  · exact ⟨rfl, rfl⟩
  · obtain ⟨e', h⟩ := State.expiryCheck_frame ({ s with cpendv := false }.modChan c Channel.clearFlag) c
    exact ⟨by rw [e']; rfl, h.trans (by simp)⟩

variable {s}

/-- A port dispatch writes the ports, ENG and the trace, and every port but its own stays (60_exceptions.md R244 to
R250). -/
theorem State.portService_frame {p : Nat} (hs : s.supported p = true) :
    s.portService p = { s with
      ports := (s.portService p).ports, eng := (s.portService p).eng, trace := (s.portService p).trace } ∧
    (s.portService p).ports.length = s.ports.length ∧
    ∀ k, k ≠ p → (s.portService p).port k = s.port k := by
  have frame (t : State) (f : Port → Port)
      (h : t = { s.modPort p f with eng := t.eng, trace := t.trace }) :
      t = { s with ports := t.ports, eng := t.eng, trace := t.trace } ∧ t.ports.length = s.ports.length ∧
        ∀ k, k ≠ p → t.port k = s.port k := by
    have hp : t.ports = (s.modPort p f).ports := by rw [h]
    refine ⟨?_, by rw [hp]; exact State.length_modPort p f, fun k hk => ?_⟩
    · rw [hp]; exact h
    · rw [State.port_congr hp (by rw [h])]; exact State.port_modPort_ne f hk
  rcases State.portService_cases hs with ⟨_, e⟩ | ⟨i, _, ⟨_, e⟩ | ⟨_, _, _, e⟩ | ⟨_, k, _, ⟨_, e⟩ | ⟨_, e⟩⟩⟩
  · exact frame _ _ (by rw [e]; rfl)
  · exact frame _ _ (by rw [e]; rfl)
  · exact frame _ _ (by rw [e]; rfl)
  · exact frame _ _ (by rw [e]; rfl)
  · exact frame _ _ (by rw [e]; rfl)

/-- A requested port is supported (60_exceptions.md R235). -/
theorem State.enabled_supported {p : Nat} (h : s.enabled (.port p) = true) : s.supported p = true :=
  (State.mem_requested.mp (State.enabled_requested h)).1

/-- What any enabled service may write; everything else stays. -/
theorem State.serve_frame {svc : Service} (h : s.enabled svc = true) :
    s.serve svc = { s with
      ovf := (s.serve svc).ovf, round := (s.serve svc).round, channels := (s.serve svc).channels
      cpend0 := (s.serve svc).cpend0, cpendv := (s.serve svc).cpendv, tspurCnt := (s.serve svc).tspurCnt
      ports := (s.serve svc).ports, eng := (s.serve svc).eng, trace := (s.serve svc).trace } ∧
    (s.serve svc).channels.length = s.channels.length ∧ (s.serve svc).ports.length = s.ports.length := by
  cases svc with
  | overflow =>
    obtain ⟨e, hl⟩ := s.overflowService_frame
    simp only [State.serve]
    exact ⟨by rw [e], hl, by rw [e]⟩
  | cmp0 =>
    obtain ⟨e, hl⟩ := s.cmp0Service_frame
    simp only [State.serve]
    exact ⟨by rw [e], hl, by rw [e]⟩
  | cmpv =>
    obtain ⟨e, hl⟩ := s.cmpvService_frame
    simp only [State.serve]
    exact ⟨by rw [e], hl, by rw [e]⟩
  | port p =>
    obtain ⟨e, hl, _⟩ := State.portService_frame (State.enabled_supported h)
    simp only [State.serve]
    exact ⟨by rw [e], by rw [e], hl⟩

end Sys2Proof.Machine
end

