-- ==== Sys2Proof/Tests/Slice0.lean ====
section
/-! SUPPORT. Tests of the model, with expected values from spec/95_test_vectors.md and 30_encoding.md R115, and for every
statement with hypotheses a state and operands that meet them. -/

open Sys2Proof Sys2Proof.Machine Sys2Proof.Claims

namespace Sys2Proof.Tests

/-! ## States -/

/-- The parameters of 95_test_vectors.md. -/
def vectorParams : Params :=
  { n := 4, portMin := 1, portMax := 2,
    settings :=
      { d := 100, serviceOrder := .any, spuriousIfgOnWrite := false, busByteOrder := .little, platformBase := none } }

/-- Right after reset, at those parameters, EXT = 0x00. -/
def fresh : State := State.resetWith vectorParams (fun _ => 0)

/-- After TINIT, GINIT and INTCTL 1. -/
def started : State := { fresh with run := true, ginitDone := true, gie := true }

/-- After `TSET 1, 0x21, 5, 1` (40_timer.md R134, example). -/
def armed : State :=
  started.setChan 1 { ccr := 5, ccie := true, ccifg := false, armed := true, targetRound := 1, callback := 0x21 }

/-- The armed channel 1 matched in round `r` (program P1). -/
def matched (r : Word) : State := { armed.modChan 1 (fun ch => { ch with ccifg := true }) with round := r, cpendv := true }

/-- Channel 0 armed for round 1 at 5 and matched (program P5, step 6), in round `r` with the counter at `cnt`. -/
def matched0 (r : Word) (cnt : Half) : State :=
  { started.setChan 0
      { ccr := 5, ccie := true, ccifg := true, armed := true, targetRound := 1, callback := 0x30 } with
    round := r, cnt := cnt, cpend0 := true, ovf := true }

/-- Port 1 after `GSET 1, 0x02, RISING|PULLUP, 1` and `Pin(1, 0x02)` (program P2, step 4). -/
def flagged : State :=
  started.modPort 1 (fun q =>
    { q with
      out := 0x02, ren := 0x02, ie := 0x02, ifg := 0x02, ext := 0x02, pend := true
      pins := q.pins.set 1 { cb := 1, deb := false, last := 0 } })

/-- A callback of port 1 is outstanding (program P7, start). -/
def waiting : State := { flagged.modPort 1 Port.enter with eng := .waitGpio 1 1 1 }

/-- A timer callback is outstanding. -/
def waitingTimer : State := { started with eng := .waitTimer 1 0x21 }

/-- A debounced edge on pin 7 of port 2, last fired at `last`, dispatched at `cnt` (95_test_vectors.md, L2.8). -/
def debounced (last cnt : Half) : State :=
  { started.modPort 2 (fun q =>
      { q with
        ie := 0x80, ifg := 0x80, pend := true
        pins := q.pins.set 7 { cb := 5, deb := true, last := last } }) with cnt := cnt }

/-- The response of a command. -/
def answer (i : Instr) (s : State) : Option Response :=
  match exec i s with
  | .next t => some t.response
  | .fault _ => none
  | .refused _ => none

/-- The state that an outcome leads to; the reset state where it leads to none. -/
def stateOf : Host.Outcome State Fault Refusal → State
  | .next t => t
  | .fault _ => fresh
  | .refused _ => fresh

/-- One step, with the turn placed on the agenda. -/
def oneStep (turn : Turn) (s : State) : State := stateOf (step { s with agenda := [turn] })

/-! ## Well-formedness -/

theorem test_wellFormed_flags :
    (Instr.gset 1 1 0x3F 1).wellFormed = true ∧ (Instr.gset 1 1 0x40 1).wellFormed = false ∧
      (Instr.gset 1 1 0x80 1).wellFormed = false := by decide

theorem test_wellFormed_pwr :
    (Instr.pwr 1 .out 1).wellFormed = true ∧ (Instr.pwr 1 .inp 1).wellFormed = false ∧
      (Instr.pwr 1 .iv 1).wellFormed = false := by decide

theorem test_wellFormed_diag :
    (Instr.diag 1 .bounce).wellFormed = true ∧ (Instr.diag 0 .status).wellFormed = true ∧
      (Instr.diag 1 .status).wellFormed = false ∧ (Instr.diag 1 .cbinfo).wellFormed = false ∧
      (Instr.diag 1 .tspur).wellFormed = false ∧ (Instr.diag 1 .round).wellFormed = false := by decide

/-! ## Decoding: words written out from 30_encoding.md R102, R106 -/

theorem test_decode_nop : decode 0b00000000000000000000000000000000 7 = .ok .nop := by decide
theorem test_decode_tinit : decode 0b00010000000000000000000000000000 7 = .ok .tinit := by decide
theorem test_decode_tnow : decode 0b00100000000000000000000000000000 7 = .ok .tnow := by decide
theorem test_decode_tnowx : decode 0b00110000000000000000000000000000 7 = .ok .tnowx := by decide
theorem test_decode_tset : decode 0b01000001001000010000000000000101 7 = .ok (.tset 1 0x21 5 7) := by decide
theorem test_decode_tunset : decode 0b01011001000000000000000000000000 7 = .ok (.tunset 9) := by decide
theorem test_decode_tquery : decode 0b01101001000000000000000000000000 7 = .ok (.tquery 9) := by decide
theorem test_decode_ginit : decode 0b01110000000000000000000000000000 7 = .ok .ginit := by decide
theorem test_decode_gset : decode 0b10000001000000100010100100000011 7 = .ok (.gset 1 0x02 0x29 3) := by decide
theorem test_decode_gquery : decode 0b10010001000001110000000000000000 7 = .ok (.gquery 1 7) := by decide
theorem test_decode_prd : decode 0b10100001011100000000000000000000 7 = .ok (.prd 1 .iv) := by decide
theorem test_decode_pwr : decode 0b10110010011000000000000010000000 7 = .ok (.pwr 2 .ifg 0x80) := by decide
theorem test_decode_intctl : decode 0b11000000000000000000000000000001 7 = .ok (.intctl true) := by decide
theorem test_decode_cbdone : decode 0b11010000000000000000000000000000 7 = .ok .cbdone := by decide
theorem test_decode_diag : decode 0b11100010001000000000000000000000 7 = .ok (.diag 2 .bounce) := by decide

/-- The illegal words of 95_test_vectors.md, L2.1. -/
theorem test_decode_illegal :
    decode 0x00000001 0 = .error .nonzeroReserved ∧ decode 0xF0000000 0 = .error .reservedOpcode ∧
    decode 0x10000001 0 = .error .nonzeroReserved ∧ decode 0x51000001 0 = .error .nonzeroReserved ∧
    decode 0x81024001 0 = .error .nonzeroReserved ∧ decode 0xA1800000 0 = .error .reservedReg ∧
    decode 0xA1010000 0 = .error .nonzeroReserved ∧ decode 0xB1000000 0 = .error .readOnlyReg ∧
    decode 0xB1700000 0 = .error .readOnlyReg ∧ decode 0xB1100100 0 = .error .nonzeroReserved ∧
    decode 0xC0000002 0 = .error .nonzeroReserved ∧ decode 0xE1000000 0 = .error .portNotZero ∧
    decode 0xE0600000 0 = .error .reservedSel := by decide

theorem test_encode_gset : encode (.gset 1 0b00000010 0x09 1) = (0x81020901, 0) := by decide
theorem test_encode_tset : encode (.tset 1 0x21 5 1) = (0x41210005, 1) := by decide

/-! ## Assembly (30_encoding.md R113 to R115) -/

theorem test_assemble_gset :
    assembleText "GSET 1, 0b00000010, RISING|PULLUP, 1".toList = .ok (0x81020901, 0) := by decide
theorem test_assemble_tset : assembleText "TSET   1, 0x21, 5, 1 ; slot 1".toList = .ok (0x41210005, 1) := by decide
theorem test_assemble_diag : assembleText "DIAG BOUNCE, 2".toList = .ok (0xE2200000, 0) := by decide
theorem test_assemble_tsetat :
    assembleText "TSETAT 1, 0x21, 65541".toList = .ok (0x41210005, 1) := by decide
theorem test_assemble_rejects :
    assembleText "TUNSET 16".toList = .error .doesNotFit ∧
      assembleText "GSET 1, 1, 0x40, 1".toList = .error .reservedFlags ∧
      assembleText "DIAG STATUS, 1".toList = .error .badForm := by decide

/-! ## Commands: responses and effects of 95_test_vectors.md, L2 -/

theorem test_nop : answer .nop started = some (ok 0) := by decide
theorem test_tinit :
    (stateOf (exec .tinit { armed with cnt := 500, round := 3 })).cnt = 0 ∧
      (stateOf (exec .tinit { armed with cnt := 500, round := 3 })).chan 1 =
        { ccr := 5, ccie := false, ccifg := false, armed := false, targetRound := 1, callback := 0 } := by decide
theorem test_tnow : answer .tnow { started with cnt := 0x1234 } = some (ok 0x1234) := by decide
theorem test_tnowx_overflow_in_flight : answer .tnowx { started with ovf := true, cnt := 3 } = some (ok 0x10003) := by decide
theorem test_tnowx_round_wraps :
    answer .tnowx { started with round := 0xFFFFFFFF, ovf := true, cnt := 7 } = some (ok 7) := by decide
theorem test_tset_arms : (stateOf (exec (.tset 1 0x21 5 1) started)).chan 1 = armed.chan 1 := by decide
theorem test_tset_before_tinit :
    answer (.tset 1 0x21 5 1) fresh = some (error .notInitialised) ∧
      (stateOf (exec (.tset 1 0x21 5 1) fresh)).statusWord = 0x100 := by decide
theorem test_tunset :
    (stateOf (exec (.tunset 1) armed)).chan 1 =
      { ccr := 5, ccie := false, ccifg := false, armed := false, targetRound := 1, callback := 0 } := by decide
theorem test_tquery : answer (.tquery 1) armed = some (ok 0x2103000500000001) := by decide
theorem test_tquery_channel : answer (.tquery 4) started = some (error .invalidChannel) := by decide
theorem test_ginit : ((stateOf (exec .ginit flagged)).port 1).pins[1] = Pin.reset ∧
    ((stateOf (exec .ginit flagged)).port 1).ie = 0x02 := by decide
theorem test_gset_example :
    (stateOf (exec (.gset 1 0b00000010 0x09 1) started)).port 1 =
      { started.port 1 with
        out := 0x02, ren := 0x02, ie := 0x02, pins := Pin.table.set 1 { cb := 1, deb := false, last := 0 } } := by decide
theorem test_gset_multibit :
    (stateOf (exec (.gset 1 0x90 0x01 3) started)).flagMultibit = true ∧
      (((stateOf (exec (.gset 1 0x90 0x01 3) started)).port 1).pins.toList.map Pin.cb) = [0, 0, 0, 0, 0, 0, 0, 3] := by
  decide
theorem test_gquery : answer (.gquery 2 7) (debounced 0x0104 0) = some (ok 0x05010104) := by decide
theorem test_gquery_pin : answer (.gquery 1 8) started = some (error .invalidPinSelection) := by decide
theorem test_prd_vector :
    answer (.prd 1 .iv) (started.modPort 1 (fun q => { q with ifg := 0x90 })) = some (ok 10) ∧
      ((stateOf (exec (.prd 1 .iv) (started.modPort 1 (fun q => { q with ifg := 0x90 })))).port 1).ifg = 0x80 := by decide
theorem test_prd_in : answer (.prd 1 .inp) (started.modPort 1 (fun q => { q with ext := 0x05 })) = some (ok 0x05) := by
  decide
theorem test_pwr_out_edge :
    ((stateOf (exec (.pwr 2 .out 0x80) (started.modPort 2 (fun q => { q with dir := 0x80 })))).port 2).ifg = 0x80 := by
  decide
theorem test_pwr_dir_edge :
    ((stateOf (exec (.pwr 1 .dir 0) (started.modPort 1 (fun q => { q with dir := 0x01, ext := 0x01 })))).port 1).ifg =
      0x01 := by decide
theorem test_intctl : (stateOf (exec (.intctl false) started)).gie = false := by decide
theorem test_cbdone : ((stateOf (exec .cbdone waiting)).port 1).ie = 0x02 ∧
    ((stateOf (exec .cbdone waiting)).port 1).ifg = 0 := by decide
theorem test_cbdone_idle : answer .cbdone started = some (error .noCallbackPending) := by decide
theorem test_diag_cbinfo :
    answer (.diag 0 .cbinfo) waitingTimer = some (ok 0x00210011) ∧
      answer (.diag 0 .cbinfo) { started with eng := .waitGpio 2 7 5 } = some (ok 0x00050723) := by decide
theorem test_diag_status :
    answer (.diag 0 .status) started = some (ok 7) ∧
      answer (.diag 0 .status) { started with eng := .waitGpio 2 7 5 } = some (ok 0xF) := by decide

/-! ## Steps of TICK, ENV and the ENGINE: 95_test_vectors.md, L2.3 to L2.8, L3 -/

theorem test_tick_wrap_matches :
    let s := oneStep .tick { started.setChan 0 { started.chan 0 with ccr := 5 } with cnt := 0xFFFF }
    s.cnt = 0 ∧ s.ovf = true ∧ s.channels.map Channel.ccifg = [false, true, true, true] ∧ s.cpendv = false := by decide
theorem test_tick_overflow_missed :
    (oneStep .tick { started with cnt := 0xFFFF, ovf := true }).faultOvfMissed = true := by decide
theorem test_pin_falling_not_selected :
    ((oneStep (.pin 1 0x00) (started.modPort 1 (fun q => { q with ext := 0x01 }))).port 1).ifg = 0 := by decide
theorem test_pin_latches :
    ((oneStep (.pin 1 0x06) (started.modPort 1 (fun q => { q with ie := 0x04 }))).port 1).pend = true := by decide
theorem test_expiry_not_due :
    (oneStep (.engine .cmpv) (matched 0)).eng = .idle ∧
      ((oneStep (.engine .cmpv) (matched 0)).chan 1).ccifg = false := by decide
theorem test_expiry_fires :
    (oneStep (.engine .cmpv) (matched 1)).trace = [.callback 0x21 (.timer 1)] ∧
      (oneStep (.engine .cmpv) (matched 1)).eng = .waitTimer 1 0x21 := by decide
theorem test_expiry_far_target_reads_past :
    roundDelta 0x80000000 0 = -2147483648 ∧ roundDelta 0x7FFFFFFF 0 = 2147483647 ∧ roundDelta 0 0xFFFFFFFF = 1 := by decide
theorem test_overflow_polls_slot0 :
    (oneStep (.engine .overflow) (matched0 0 5)).trace = [.callback 0x30 (.timer 0)] ∧
      (oneStep (.engine .overflow) (matched0 0 4)).trace = [] := by decide
theorem test_cmpv_spurious : (oneStep (.engine .cmpv) { started with cpendv := true }).tspurCnt = 1 := by decide
theorem test_dispatch_fires :
    (oneStep (.engine (.port 1)) flagged).trace = [.callback 1 (.gpio 1 1)] ∧
      ((oneStep (.engine (.port 1)) flagged).port 1).savedIe = 0x02 := by decide
theorem test_dispatch_sentinel :
    let s := oneStep (.engine (.port 1)) (flagged.modPort 1 (fun q => { q with ifg := 0 }))
    s.trace = [] ∧ (s.port 1).spurCnt = 1 ∧ (s.port 1).ie = 0x02 ∧ (s.port 1).pend = false := by decide
theorem test_debounce_window :
    ((oneStep (.engine (.port 2)) (debounced 65500 64)).port 2).bounceCnt = 1 ∧
      ((oneStep (.engine (.port 2)) (debounced 65500 65)).port 2).pins[7] = { cb := 5, deb := true, last := 65 } := by decide
theorem test_services_do_not_nest : (oneStep (.engine .cmpv) { matched 1 with eng := .waitTimer 2 9 }).cpendv = true := by
  decide
theorem test_fixed_order :
    let s := { matched0 0 5 with settings := { fresh.settings with serviceOrder := .fixed } }
    s.enabled .overflow = true ∧ s.enabled .cmp0 = false ∧ (matched0 0 5).enabled .cmp0 = true := by decide
theorem test_first_step_after_reset :
    stateOf (step (State.reset.withFetchWord 32 0x10000000)) =
      { State.reset with
        run := true, turns := 1, response := ok 0, trace := [.cmd 0x10000000 0 (ok 0)] } := by decide

/-! ## Witnesses: a state and operands that meet the hypotheses of each statement, clause by clause -/

theorem witness_DecodeOfEncode :
    (Instr.gset 15 0xFF 0x3F 0xFF).wellFormed = true ∧ (Instr.pwr 15 .ifg 0xFF).wellFormed = true ∧
      (Instr.diag 15 .spur).wellFormed = true ∧ (Instr.diag 0 .round).wellFormed = true := by decide

theorem witness_EncodeOfDecode : decode 0x4FFFFFFF 5 = .ok (.tset 15 0xFF 0xFFFF 5) := by decide

theorem witness_DataIsReadByTsetAlone : (0x50000000#32).extractLsb' 28 4 ≠ 4#4 ∧ (0x30000000#32).extractLsb' 28 4 ≠ 4#4 := by
  decide

theorem witness_PseudoInstructionsExpand : (0 : Nat) < 2 ^ 48 ∧ (2 ^ 48 - 1 : Nat) < 2 ^ 48 := by decide

theorem witness_EveryCommandHasAnAssemblyLine :
    (Instr.gset 0 0 0x3F 0).wellFormed = true ∧ (Instr.diag 15 .bounce).wellFormed = true := by decide

theorem witness_TsetArmsSlot :
    fresh.run = false ∧ (started.run = true ∧ started.channels.length ≤ (4 : Nibble).toNat) ∧
      (started.run = true ∧ (3 : Nibble).toNat < started.channels.length) := by decide

theorem witness_TunsetDisarmsSlot :
    armed.channels.length ≤ (4 : Nibble).toNat ∧ armed.channels[(3 : Nibble).toNat]? = some Channel.reset := by decide

theorem witness_TqueryReadsSlot :
    armed.channels.length ≤ (15 : Nibble).toNat ∧ armed.channels[(0 : Nibble).toNat]? = some Channel.reset := by decide

theorem witness_ClearingCommandsAreIdempotent :
    (Instr.tunset 15 = .tinit ∨ Instr.tunset 15 = .ginit ∨ ∃ ch, Instr.tunset 15 = .tunset ch) ∧
      (Instr.ginit = .tinit ∨ Instr.ginit = .ginit ∨ ∃ ch, Instr.ginit = .tunset ch) := by decide

theorem witness_GinitClearsPinTable :
    flagged.ports[0]? = some (flagged.port 1) ∧ (stateOf (exec .ginit flagged)).ports[0]?.isSome = true := by decide

theorem witness_GsetErrorsInOrder :
    ((0x3F : Byte).getLsbD 6 = false ∧ (0x3F : Byte).getLsbD 7 = false) ∧ fresh.ginitDone = false ∧
      started.ginitDone = true ∧
      ¬(started.portMin ≤ (0 : Nibble).toNat ∧ (0 : Nibble).toNat < started.portMin + started.ports.length) ∧
      ¬(started.portMin ≤ (3 : Nibble).toNat ∧ (3 : Nibble).toNat < started.portMin + started.ports.length) ∧
      started.portMin ≤ (1 : Nibble).toNat ∧ (2 : Nibble).toNat < started.portMin + started.ports.length := by decide

theorem idle_is_no_wait {s : State} (h : s.eng = .idle) (p : Nat) : ∀ i cb, s.eng ≠ .waitGpio p i cb := by simp [h]

theorem witness_GsetDisableClearsEnablesOnly :
    ((0x3F : Byte).getLsbD 6 = false ∧ (0x3F : Byte).getLsbD 7 = false ∧ (0x3F : Byte).getLsbD 2 = true) ∧
      (flagged.ginitDone = true ∧ flagged.supported 1 = true ∧ (0x80 : Byte) ≠ 0) ∧
      (∀ i cb, flagged.eng ≠ .waitGpio 1 i cb) ∧
      waiting.ginitDone = true ∧ waiting.supported 1 = true ∧ waiting.eng = .waitGpio 1 1 1 :=
  ⟨by decide, by decide, idle_is_no_wait (by decide) 1, by decide⟩

theorem witness_GsetConfiguresPins :
    ((0x3B : Byte).getLsbD 6 = false ∧ (0x3B : Byte).getLsbD 7 = false ∧ (0x3B : Byte).getLsbD 2 = false) ∧
      (flagged.ginitDone = true ∧ flagged.supported 2 = true ∧ (0x81 : Byte) ≠ 0) ∧
      (∀ i cb, flagged.eng ≠ .waitGpio 2 i cb) ∧ (Highest 0x81 7 ∧ ¬Highest 0x81 0) ∧
      waiting.ginitDone = true ∧ waiting.supported 1 = true ∧ waiting.eng = .waitGpio 1 1 1 :=
  ⟨by decide, by decide, idle_is_no_wait (by decide) 2, by unfold Highest; decide, by decide⟩

theorem witness_GqueryReadsPinEntry :
    started.supported 0 = false ∧ started.supported 3 = false ∧ (started.supported 1 = true ∧ 8 ≤ (8 : Byte).toNat) ∧
      (started.supported 2 = true ∧ (7 : Byte).toNat = (7 : Fin 8).val) := by decide

theorem witness_PrdReadsRegisters :
    started.supported 3 = false ∧ flagged.supported 1 = true ∧ (∀ i cb, flagged.eng ≠ .waitGpio 1 i cb) ∧
      waiting.supported 1 = true ∧ waiting.eng = .waitGpio 1 1 1 :=
  ⟨by decide, by decide, idle_is_no_wait (by decide) 1, by decide⟩

theorem witness_PrdVectorReportsLowestFlag :
    (started.supported 1 = true ∧ (started.port 1).ifg = 0) ∧ ((debounced 0 0).supported 2 = true ∧
      Lowest ((debounced 0 0).port 2).ifg 7) := by unfold Lowest; decide

theorem witness_PwrWritesPlainRegisters :
    (started.supported 0 = false ∧ PortReg.out ≠ .inp ∧ PortReg.out ≠ .iv) ∧ flagged.supported 1 = true ∧
      (∀ i cb, flagged.eng ≠ .waitGpio 1 i cb) ∧ waiting.supported 1 = true ∧ waiting.eng = .waitGpio 1 1 1 :=
  ⟨by decide, by decide, idle_is_no_wait (by decide) 1, by decide⟩

theorem witness_PwrWritesSetFlags : started.supported 1 = true ∧ started.supported 2 = true := by decide

theorem witness_CbdoneReturnsFromCallback :
    started.eng = .idle ∧ waitingTimer.eng = .waitTimer 1 0x21 ∧
      (waiting.eng = .waitGpio 1 1 1 ∧ waiting.supported 1 = true) := by decide

theorem witness_DiagReadsDiagnostics :
    started.supported 2 = true ∧ started.supported 3 = false ∧ (DiagSel.spur = .bounce ∨ DiagSel.spur = .spur) := by decide

theorem witness_StatusWordBits : (started.statusWord.getLsbD 2 = true) ∧ flagged.statusWord.getLsbD 17 = true ∧
    flagged.supported 1 = true ∧ (flagged.port 1).pend = true := by decide

theorem witness_CallbackInfoFields : (15 : Nat) < 16 := by decide

theorem witness_ErrorsChangeNothing :
    exec (.tset 4 1 1 1) started = .next (stateOf (exec (.tset 4 1 1 1) started)) ∧
      (stateOf (exec (.tset 4 1 1 1) started)).response.status = .invalidChannel ∧
      exec (.tset 4 1 1 1) fresh = .next (stateOf (exec (.tset 4 1 1 1) fresh)) ∧
      (stateOf (exec (.tset 4 1 1 1) fresh)).response.status = .notInitialised := ⟨rfl, by decide, rfl, by decide⟩

theorem witness_ReadsChangeNothing :
    ReadsOnly (.prd 1 .ifg) ∧ exec (.prd 1 .ifg) flagged = .next (stateOf (exec (.prd 1 .ifg) flagged)) :=
  ⟨by simp [ReadsOnly], rfl⟩

theorem witness_TimerCommandsLeaveGpio :
    TimerCommand .tinit ∧ exec .tinit flagged = .next (stateOf (exec .tinit flagged)) := ⟨trivial, rfl⟩

theorem witness_GpioCommandsLeaveTimer :
    GpioCommand (.pwr 1 .out 1) ∧ exec (.pwr 1 .out 1) flagged = .next (stateOf (exec (.pwr 1 .out 1) flagged)) ∧
      NamesPort (.pwr 1 .out 1) 1 ∧ 2 ≠ (1 : Nibble).toNat := ⟨trivial, rfl, rfl, by decide⟩

theorem witness_StepRunsDecodedCommand :
    (decode 0x41210005 1 = .ok (.tset 1 0x21 5 1) ∧
      exec (.tset 1 0x21 5 1) (taken { started with agenda := [.host 0x41210005 1] } []) =
        .next (stateOf (exec (.tset 1 0x21 5 1) (taken { started with agenda := [.host 0x41210005 1] } [])))) ∧
      decode 0xF0000000 0 = .error .reservedOpcode ∧ 0xFFFFFFFF < 2 ^ 32 := ⟨⟨by decide, rfl⟩, by decide, by decide⟩

theorem witness_TickAdvancesCounter :
    ({ fresh with agenda := [.tick] }.agenda = .tick :: [] ∧ { fresh with agenda := [.tick] }.run = false) ∧
      ({ started with agenda := [.tick], cnt := 0xFFFF }.agenda = .tick :: [] ∧
        { started with agenda := [.tick], cnt := 0xFFFF }.run = true) := by decide

theorem witness_PinStepDetectsEdges :
    { started with agenda := [.pin 2 0x03] }.agenda = .pin 2 0x03 :: [] ∧ started.supported 2 = true := by decide

theorem witness_LatchUpdate :
    (let s := { matched0 0 5 with agenda := [.engine .cmp0] }
     step s = .next (stateOf (step s)) ∧ s.cpend0 = true ∧ (stateOf (step s)).cpend0 = false) ∧
      (let s := { matched 1 with agenda := [.engine .cmpv] }
       step s = .next (stateOf (step s)) ∧ s.cpendv = true ∧ (stateOf (step s)).cpendv = false) ∧
      (let s := { flagged with agenda := [.engine (.port 1)] }
       step s = .next (stateOf (step s)) ∧ (s.port 1).pend = true ∧ ((stateOf (step s)).port 1).pend = false) :=
  ⟨⟨rfl, by decide⟩, ⟨rfl, by decide⟩, ⟨rfl, by decide⟩⟩

theorem witness_EngineTurnServesOrPasses :
    (matched 1).enabled .cmpv = true ∧ (matched 1).enabled .cmp0 = false ∧ started.supported 3 = false ∧
      { matched 1 with agenda := [.engine .cmpv] }.agenda = .engine .cmpv :: [] := by decide

theorem witness_OverflowServicePollsSlotZero :
    let fires (s : State) : Prop :=
      (s.chan 0).armed = true ∧ (s.chan 0).targetRound = s.round + 1 ∧ (s.chan 0).ccr.toNat ≤ s.cnt.toNat
    ¬fires (matched0 0 4) ∧ (fires (matched0 0 5) ∧ ((matched0 0 5).chan 0).callback ≠ 0) ∧
      fires ((matched0 0 5).modChan 0 (fun ch => { ch with callback := 0 })) ∧
      (((matched0 0 5).modChan 0 (fun ch => { ch with callback := 0 })).chan 0).callback = 0 := by decide

theorem witness_ExpiryCheckFiresDueSlots :
    (started.channels[3]? = some Channel.reset ∧ Channel.reset.armed = false) ∧
      ((matched 0).channels[1]? = some ((matched 0).chan 1) ∧ ((matched 0).chan 1).armed = true ∧
        ¬Due ((matched 0).chan 1).targetRound 0) ∧
      (((matched 1).chan 1).armed = true ∧ Due ((matched 1).chan 1).targetRound 1 ∧ ((matched 1).chan 1).callback ≠ 0) ∧
      Due 0x80000000 0 ∧ ¬Due 0x7FFFFFFF 0 := by unfold Due; decide

theorem started_chan (c : Nat) : started.chan c = Channel.reset := by
  simp only [State.chan, List.getD, started, fresh, State.resetWith, List.getElem?_replicate]
  split <;> rfl

theorem witness_CompareServicesHandleLowestMatch :
    ¬Matched (started.chan 0) ∧ Matched ((matched0 0 5).chan 0) ∧ (∀ c, 1 ≤ c → ¬Matched (started.chan c)) ∧
      (Matched ((matched 1).chan 1) ∧ ∀ k, 1 ≤ k → k < 1 → ¬Matched ((matched 1).chan k)) :=
  ⟨by unfold Matched; decide, by unfold Matched; decide, fun c _ => by rw [started_chan]; simp [Matched, Channel.reset],
    by unfold Matched; decide, fun k h h' => by omega⟩

theorem witness_DispatchAbsorbsSpuriousAndBounce :
    (started.supported 1 = true ∧ (started.port 1).ifg = 0) ∧
      (let s := flagged.modPort 1 (fun q => { q with ie := 0 })
       Lowest (s.port 1).ifg 1 ∧ (s.port 1).ie.getLsbD 1 = false) ∧
      (let s := debounced 0 100
       Lowest (s.port 2).ifg 7 ∧ (s.port 2).ie.getLsbD 7 = true ∧ (s.port 2).pins[7].deb = true ∧
         elapsed s.cnt (s.port 2).pins[7].last ≤ s.settings.d.toNat) := by unfold Lowest elapsed; decide

theorem witness_DispatchInvokesAcceptedPin :
    (let s := debounced 0 101
     s.supported 2 = true ∧ Lowest (s.port 2).ifg 7 ∧ (s.port 2).ie.getLsbD 7 = true ∧
       (s.port 2).pins[7].deb = true ∧ s.settings.d.toNat < elapsed s.cnt (s.port 2).pins[7].last ∧
       (s.port 2).pins[7].cb ≠ 0) ∧
      (flagged.supported 1 = true ∧ Lowest (flagged.port 1).ifg 1 ∧ (flagged.port 1).ie.getLsbD 1 = true ∧
        (flagged.port 1).pins[1].deb = false) ∧
      (let s := flagged.modPort 1 Port.clearPins
       Lowest (s.port 1).ifg 1 ∧ (s.port 1).ie.getLsbD 1 = true ∧ (s.port 1).pins[1].deb = false ∧
         (s.port 1).pins[1].cb = 0) := by unfold Lowest elapsed; decide

theorem witness_CallbackReconfigurationSurvives :
    (waiting.eng = .waitGpio 1 1 1 ∧ waiting.supported 1 = true ∧ waiting.ginitDone = true ∧ (0x04 : Byte) ≠ 0) ∧
      (0x01 : Byte).getLsbD 6 = false ∧ (0x01 : Byte).getLsbD 7 = false ∧ (0x01 : Byte).getLsbD 2 = false := by decide

theorem witness_ResetValues :
    (1 : Nat) ≤ 2 ∧ fresh.supported 1 = true ∧ fresh.supported 2 = true ∧ fresh.channels.length = 4 := by decide

theorem witness_InvariantAtReset : vectorParams.valid = true := by decide

theorem witness_StepKeepsInvariant :
    (let s := { armed with agenda := [.tick], cnt := 4 }
     s.Inv ∧ step s = .next (stateOf (step s))) :=
  ⟨{ shape := ⟨by decide, by decide, by decide, by decide, by decide⟩
     slots := by
      have h : ∀ ch ∈ armed.channels, ch.ccie = ch.armed ∧ (ch.armed = false → ch.callback = 0) := by decide
      exact fun ch hc => ⟨(h ch hc).1, (h ch hc).2⟩
     eng := trivial
     beforeTinit := fun h => by cases h
     beforeGinit := fun h => by cases h
     latched := ⟨by decide, by decide, by decide⟩ }, rfl⟩

theorem witness_ReachableStatesMeetInvariant :
    vectorParams.valid = true ∧ State.Reachable vectorParams (fun _ => 0) (oneStep .tick fresh) :=
  ⟨by decide, .stepped (.placed [.tick] .reset) rfl⟩

theorem witness_LogicalTimeMovesByTickAlone :
    (let s := { started with agenda := [.tick], cnt := 0xFFFF }
     s.nextTurn = .tick ∧ s.run = true ∧ ¬(s.ovf = true ∧ s.cnt = 0xFFFF) ∧ step s = .next (stateOf (step s))) ∧
      (let s := { fresh with agenda := [.tick] }
       s.nextTurn = .tick ∧ s.run = false ∧ step s = .next (stateOf (step s))) ∧
      { started with agenda := [.pin 1 1] }.nextTurn ≠ .tick ∧ ¬Issues { started with agenda := [.pin 1 1] } .tinit :=
  ⟨⟨by decide, by decide, by decide, rfl⟩, ⟨by decide, by decide, rfl⟩, by decide,
    by rintro ⟨_, _, h, _⟩; cases h⟩

theorem witness_RoundMovesByOverflowServiceAlone :
    let s := { started with agenda := [.engine .overflow], ovf := true }
    step s = .next (stateOf (step s)) ∧ (stateOf (step s)).round ≠ s.round := ⟨rfl, by decide⟩

theorem witness_GieIsWrittenByIntctlAlone :
    let s := { started with agenda := [.host 0xC0000000 0] }
    step s = .next (stateOf (step s)) ∧ (stateOf (step s)).gie ≠ s.gie := ⟨rfl, by decide⟩

theorem witness_StickyBitsStaySet :
    let s := { started with agenda := [.tick], faultUninit := true, faultOvfMissed := true, flagMultibit := true }
    step s = .next (stateOf (step s)) ∧ s.faultUninit = true ∧ s.faultOvfMissed = true ∧ s.flagMultibit = true ∧
      s.run = true ∧ s.ginitDone = true := ⟨rfl, by decide⟩

theorem witness_ParametersAndExternalLevelsStay :
    let s := { started with agenda := [.pin 1 1] }
    step s = .next (stateOf (step s)) ∧ ((stateOf (step s)).port 1).ext ≠ (s.port 1).ext := ⟨rfl, by decide⟩

theorem witness_PlatformParametersDoNotMatter :
    step { started with agenda := [.tick] } = .next (stateOf (step { started with agenda := [.tick] })) := rfl

theorem witness_ServicesDoNotNest :
    (let s := { matched 1 with eng := .waitTimer 2 9, agenda := [.engine .cmpv] }
     s.eng ≠ .idle ∧ step s = .next (stateOf (step s)) ∧ s.nextTurn = .engine .cmpv) ∧
      (let s := { waiting with agenda := [.host 0xD0000000 0] }
       s.eng ≠ .idle ∧ step s = .next (stateOf (step s)) ∧ (stateOf (step s)).eng = .idle) :=
  ⟨⟨by decide, rfl, by decide⟩, ⟨by decide, rfl, by decide⟩⟩

theorem witness_TimerCallbackOnlyFromDueSlot :
    let s := { matched 1 with agenda := [.engine .cmpv] }
    step s = .next (stateOf (step s)) ∧ (stateOf (step s)).trace = .callback 0x21 (.timer 1) :: s.trace := ⟨rfl, by decide⟩

theorem witness_GpioCallbackOnlyFromEnabledFlaggedPin :
    let s := { flagged with agenda := [.engine (.port 1)] }
    step s = .next (stateOf (step s)) ∧ (stateOf (step s)).trace = .callback 1 (.gpio 1 1) :: s.trace := ⟨rfl, by decide⟩

theorem witness_SlotStateMachine :
    (let s := { started with agenda := [.host 0x41210005 1] }
     step s = .next (stateOf (step s)) ∧ (s.chan 1).armed = false ∧ ((stateOf (step s)).chan 1).armed = true) ∧
      (let s := { matched 1 with agenda := [.engine .cmpv] }
       step s = .next (stateOf (step s)) ∧ (s.chan 1).armed = true ∧ ((stateOf (step s)).chan 1).armed = false) :=
  ⟨⟨rfl, by decide, by decide⟩, ⟨rfl, by decide, by decide⟩⟩

theorem witness_LastFireTimeIsStampedByAcceptedEvents :
    let s := { debounced 0 101 with agenda := [.engine (.port 2)] }
    step s = .next (stateOf (step s)) ∧ ((stateOf (step s)).port 2).pins[7].last ≠ (s.port 2).pins[7].last :=
  ⟨rfl, by decide⟩

theorem witness_TraceGrowsByTheStepsEvent :
    (let s := { started with agenda := [.host 0 0] }
     step s = .next (stateOf (step s)) ∧ s.nextTurn = .host 0 0) ∧
      (let s := { started with agenda := [.pin 2 1] }
       step s = .next (stateOf (step s)) ∧ s.nextTurn = .pin 2 1 ∧ s.supported 2 = true) ∧
      (let s := { matched 1 with agenda := [.engine .cmpv] }
       step s = .next (stateOf (step s)) ∧ s.nextTurn = .engine .cmpv) :=
  ⟨⟨rfl, by decide⟩, ⟨rfl, by decide, by decide⟩, ⟨rfl, by decide⟩⟩

end Sys2Proof.Tests
end

section
/-! The views STATUS and CBINFO (10_state.md R61, R62): each is put together from placed fields, so a field is read back
by the rules of a placed field, and DIAG returns the view with nothing else changed (42_control.md R213). -/

/-! ### Fields read back from a placed field -/

namespace Sys2Proof

/-- A field is read back whole at its own place. -/
theorem extractLsb'_place_self {w n lo : Nat} (v : BitVec w) (h : lo + w ≤ n) :
    (place n v lo).extractLsb' lo w = v := by
  refine bits_ext fun k hk => ?_
  have hn : lo + k < n := by omega
  simp [hk, hn]

/-- Outside its own place a field is 0. -/
theorem extractLsb'_place_disjoint {w n lo : Nat} (v : BitVec w) (start len : Nat)
    (h : start + len ≤ lo ∨ lo + w ≤ start) : (place n v lo).extractLsb' start len = 0 := by
  refine bits_ext fun k hk => ?_
  simp only [BitVec.getLsbD_extractLsb', getLsbD_place, BitVec.ofNat_eq_ofNat, BitVec.getLsbD_zero]
  rcases h with below | above
  · have hlo : ¬ lo ≤ start + k := by omega
    simp [hlo]
  · have hw : w ≤ start + k - lo := by omega
    simp [BitVec.getLsbD_of_ge v _ hw]

/-- Outside its own place a one-bit field is 0. -/
theorem extractLsb'_placeBit_disjoint {n lo : Nat} (b : Bool) (start len : Nat)
    (h : start + len ≤ lo ∨ lo + 1 ≤ start) : (placeBit n b lo).extractLsb' start len = 0 :=
  extractLsb'_place_disjoint (bit b) start len h

end Sys2Proof

/-! ### DIAG of a view -/

namespace Sys2Proof.Machine
open Sys2Proof.Claims

theorem State.done_setWidth {w : Nat} (s : State) (v : BitVec w) :
    s.done (v.setWidth 64) = .next { s with response := ok (BitVec.ofNat 64 v.toNat) } := by
  rw [BitVec.ofNat_toNat]; rfl

theorem exec_diag_status (s : State) :
    exec (.diag 0 .status) s = .next { s with response := ok (BitVec.ofNat 64 s.statusWord.toNat) } :=
  s.done_setWidth s.statusWord

theorem exec_diag_cbinfo (s : State) :
    exec (.diag 0 .cbinfo) s = .next { s with response := ok (BitVec.ofNat 64 s.eng.info.toNat) } :=
  s.done_setWidth s.eng.info

/-! ### CBINFO -/

/-- CBINFO of `WAIT_TIMER(c, cb)`, field by field (10_state.md R62). -/
theorem Eng.info_waitTimer_fields {c : Nat} (cb : Byte) (hc : c < 16) :
    let w := (Eng.waitTimer c cb).info
    w.extractLsb' 16 8 = cb ∧ (w.extractLsb' 4 4).toNat = c ∧ w.getLsbD 1 = false ∧ w.getLsbD 0 = true ∧
      w.extractLsb' 24 8 = 0 ∧ w.extractLsb' 8 8 = 0 ∧ w.extractLsb' 2 2 = 0 := by
  simp [Eng.info, BitVec.extractLsb'_or, extractLsb'_place_self, extractLsb'_place_disjoint,
    extractLsb'_placeBit_disjoint, Nat.mod_eq_of_lt hc]

/-- CBINFO of `WAIT_GPIO(p, i, cb)`, field by field (10_state.md R62). -/
theorem Eng.info_waitGpio_fields {p : Nat} (i : Fin 8) (cb : Byte) (hp : p < 16) :
    let w := (Eng.waitGpio p i cb).info
    w.extractLsb' 16 8 = cb ∧ (w.extractLsb' 8 3).toNat = i.val ∧ (w.extractLsb' 4 4).toNat = p ∧
      w.getLsbD 1 = true ∧ w.getLsbD 0 = true ∧
      w.extractLsb' 24 8 = 0 ∧ w.extractLsb' 11 5 = 0 ∧ w.extractLsb' 2 2 = 0 := by
  simp [Eng.info, BitVec.extractLsb'_or, extractLsb'_place_self, extractLsb'_place_disjoint,
    extractLsb'_placeBit_disjoint, Nat.mod_eq_of_lt hp]

/-- Settles O27: DIAG select 1 returns CBINFO, which has every field of R62 in each state of ENG. -/
theorem callbackInfoFields : Obligations.CallbackInfoFields :=
  ⟨exec_diag_cbinfo, rfl, fun _ cb hc => Eng.info_waitTimer_fields cb hc,
    fun _ i cb hp => Eng.info_waitGpio_fields i cb hp⟩

/-! ### STATUS -/

@[simp] theorem State.getElem_pendBit (s : State) (p k : Nat) (hk : k < 32) :
    (s.pendBit p)[k] = (decide (k = 16 + p) && (s.supported p && (s.port p).pend)) :=
  getElem_placeBit 32 _ (16 + p) k hk

/-- Below bit 16 + p the latch of port `p` is not in STATUS. -/
theorem State.extractLsb'_pendBit_below (s : State) (p start len : Nat) (h : start + len ≤ 16 + p) :
    (s.pendBit p).extractLsb' start len = 0 := extractLsb'_placeBit_disjoint _ start len (.inl h)

/-- Bits 10:0 of STATUS are the one-bit registers, each at its own place, and 0 at bit 7 (10_state.md R61). -/
theorem State.getLsbD_statusWord_registers (s : State) :
    let w := s.statusWord
    w.getLsbD 0 = s.gie ∧ w.getLsbD 1 = s.run ∧ w.getLsbD 2 = s.ginitDone ∧ w.getLsbD 3 = (s.eng != .idle) ∧
      w.getLsbD 4 = s.ovf ∧ w.getLsbD 5 = s.cpend0 ∧ w.getLsbD 6 = s.cpendv ∧ w.getLsbD 7 = false ∧
      w.getLsbD 8 = s.faultUninit ∧ w.getLsbD 9 = s.faultOvfMissed ∧ w.getLsbD 10 = s.flagMultibit := by
  simp [State.statusWord]

/-- Bits 15:11 of STATUS are 0: they lie between the registers' bits and the ports' (10_state.md R61). -/
theorem State.extractLsb'_statusWord_gap (s : State) : s.statusWord.extractLsb' 11 5 = 0 := by
  simp [State.statusWord, BitVec.extractLsb'_or, extractLsb'_placeBit_disjoint, State.extractLsb'_pendBit_below]

/-- Bit 16 of STATUS is 0: there is no port 0 (10_state.md R61). -/
theorem State.getLsbD_statusWord_portZero (s : State) : s.statusWord.getLsbD 16 = false := by
  simp [State.statusWord]

/-- Bit 16 + p of STATUS is PEND[p], and 0 for an unsupported `p` (10_state.md R61). -/
theorem State.getLsbD_statusWord_pend (s : State) {p : Nat} (h1 : 1 ≤ p) (h15 : p ≤ 15) :
    s.statusWord.getLsbD (16 + p) = (s.supported p && (s.port p).pend) := by
  interval_cases p <;> simp [State.statusWord]

/-- Settles O26: DIAG select 0 returns STATUS, the one-bit registers below bit 11 and the latches of the ports above
bit 16. -/
theorem statusWordBits : Obligations.StatusWordBits := by
  intro s w
  obtain ⟨gie, run, ginit, eng, ovf, cpend0, cpendv, bit7, uninit, missed, multibit⟩ :=
    s.getLsbD_statusWord_registers
  have waiting : w.getLsbD 3 = true ↔ s.eng ≠ .idle := by rw [eng, bne_iff_ne]
  have pend (p : Nat) (h1 : 1 ≤ p) (h15 : p ≤ 15) :
      w.getLsbD (16 + p) = true ↔ s.supported p = true ∧ (s.port p).pend = true := by
    rw [s.getLsbD_statusWord_pend h1 h15, Bool.and_eq_true]
  exact ⟨exec_diag_status s, gie, run, ginit, waiting, ovf, cpend0, cpendv, bit7, uninit, missed, multibit,
    s.extractLsb'_statusWord_gap, s.getLsbD_statusWord_portZero, pend⟩

end Sys2Proof.Machine
end

section
/-! Words and commands (30_encoding.md R102 to R115): which words the decoder accepts, format by format, what it reads
from DATA, and what the pseudo-instructions assemble to. -/

/-! ### The words of each format that decode -/

namespace Sys2Proof
open Sys2Proof.Claims

/-- A check that refuses where `c` fails: what stands behind it decides the words that meet `c`. -/
theorem exists_ite_error_eq_ok {c : Prop} [Decidable c] {x : Except DecodeError Instr} {e : DecodeError} :
    (∃ i, (if c then x else .error e) = .ok i) ↔ c ∧ ∃ i, x = .ok i := by
  by_cases h : c <;> simp [h]

theorem exists_requireZero_eq_ok {w : Nat} {reserved : BitVec w} {j : Instr} :
    (∃ i, requireZero reserved j = .ok i) ↔ reserved = 0 :=
  exists_ite_error_eq_ok.trans (and_iff_left ⟨j, rfl⟩)

/-- FLAGS bits 7:6 are CMD bits 15:14 (30_encoding.md R102). -/
theorem extractLsb'_fieldFlags (cmd : Word) : (fieldFlags cmd).extractLsb' 6 2 = cmd.extractLsb' 14 2 :=
  bits_ext fun k hk => by
    have h : 6 + k < 8 := by omega
    simp [fieldFlags, h, ← Nat.add_assoc]

theorem exists_decodeGset_eq_ok {cmd : Word} : (∃ i, decodeGset cmd = .ok i) ↔ cmd.extractLsb' 14 2 = 0 := by
  rw [decodeGset, exists_ite_error_eq_ok, flagsLegal, extractLsb'_fieldFlags, beq_iff_eq]
  exact and_iff_left ⟨_, rfl⟩

/-- REG codes 0 to 7 name a register (30_encoding.md R109). -/
theorem exists_portRegOfCode_eq_some {code : Nibble} : (∃ reg, portRegOfCode code = some reg) ↔ code.toNat ≤ 7 := by
  rw [← Option.isSome_iff_exists]
  revert code; decide

/-- REG codes 1 to 6 name a writable register (30_encoding.md R107, R109). -/
theorem exists_writable_portRegOfCode_eq_some {code : Nibble} :
    (∃ reg, portRegOfCode code = some reg ∧ reg.writable = true) ↔ 1 ≤ code.toNat ∧ code.toNat ≤ 6 := by
  rw [← Option.any_eq_true]
  revert code; decide

/-- SEL codes 0 to 5 name a select, and those other than 2 and 3 require PORT to be 0 (30_encoding.md R107, R110). -/
theorem exists_diagSelOfCode_eq_some {code port : Nibble} :
    (∃ sel, diagSelOfCode code = some sel ∧ (sel.takesPort || port == 0) = true) ↔
      code.toNat ≤ 5 ∧ (code.toNat = 2 ∨ code.toNat = 3 ∨ port = 0) := by
  rw [← Option.any_eq_true]
  revert code port; decide

theorem exists_decodePrd_eq_ok {cmd : Word} :
    (∃ i, decodePrd cmd = .ok i) ↔ (fieldSel cmd).toNat ≤ 7 ∧ cmd.extractLsb' 0 20 = 0 := by
  rw [← exists_portRegOfCode_eq_some, decodePrd]
  cases portRegOfCode (fieldSel cmd) with
  | none => simp
  | some reg => simp [exists_requireZero_eq_ok]

theorem exists_decodePwr_eq_ok {cmd : Word} :
    (∃ i, decodePwr cmd = .ok i) ↔
      1 ≤ (fieldSel cmd).toNat ∧ (fieldSel cmd).toNat ≤ 6 ∧ cmd.extractLsb' 8 12 = 0 := by
  rw [← and_assoc, ← exists_writable_portRegOfCode_eq_some, decodePwr]
  cases portRegOfCode (fieldSel cmd) with
  | none => simp
  | some reg => simp [exists_ite_error_eq_ok, exists_requireZero_eq_ok]

theorem exists_decodeDiag_eq_ok {cmd : Word} :
    (∃ i, decodeDiag cmd = .ok i) ↔
      (fieldSel cmd).toNat ≤ 5 ∧ cmd.extractLsb' 0 20 = 0 ∧
        ((fieldSel cmd).toNat = 2 ∨ (fieldSel cmd).toNat = 3 ∨ fieldHi cmd = 0) := by
  rw [and_left_comm, ← exists_diagSelOfCode_eq_some, decodeDiag]
  cases diagSelOfCode (fieldSel cmd) with
  | none => simp
  | some sel => simp [exists_ite_error_eq_ok, exists_requireZero_eq_ok, and_comm]

/-- Settles O3: for each opcode, the decoder of its format accepts exactly the words R107 calls legal. -/
theorem decodeRefusesExactlyIllegalWords : Obligations.DecodeRefusesExactlyIllegalWords := by
  intro cmd data
  unfold decode Legal fieldOp
  generalize (cmd.extractLsb' 28 4).toNat = op
  match op with
  | 0x0 | 0x1 | 0x2 | 0x3 | 0x5 | 0x6 | 0x7 | 0x9 | 0xC | 0xD => exact exists_requireZero_eq_ok
  | 0x4 => exact iff_of_true ⟨_, rfl⟩ trivial
  | 0x8 => exact exists_decodeGset_eq_ok
  | 0xA => exact exists_decodePrd_eq_ok
  | 0xB => exact exists_decodePwr_eq_ok
  | 0xE => exact exists_decodeDiag_eq_ok
  | _ + 0xF => simp

/-! ### DATA -/

/-- Opcode 4 decodes to TSET whatever the fields hold, with DATA as its target_round (30_encoding.md R104). -/
theorem decode_of_fieldOp_tset {cmd : Word} (data : Word) (h : fieldOp cmd = 4) :
    decode cmd data = .ok (.tset (fieldHi cmd) (fieldMid cmd) (fieldCmp cmd) data) := by
  simp [decode, h]

/-- Each field of TSET's word is read back from its own place (30_encoding.md R102). -/
theorem fields_encodeCmd_tset (ch : Nibble) (cb : Byte) (cmp : Half) (r : Word) :
    let cmd := encodeCmd (.tset ch cb cmp r)
    fieldOp cmd = 4 ∧ fieldHi cmd = ch ∧ fieldMid cmd = cb ∧ fieldCmp cmd = cmp := by
  simp [encodeCmd, placeOp, fieldOp, fieldHi, fieldMid, fieldCmp, BitVec.extractLsb'_or, extractLsb'_place_self,
    extractLsb'_place_disjoint]

theorem decode_encodeCmd_tset (ch : Nibble) (cb : Byte) (cmp : Half) (r data : Word) :
    decode (encodeCmd (.tset ch cb cmp r)) data = .ok (.tset ch cb cmp data) := by
  obtain ⟨hop, hch, hcb, hcmp⟩ := fields_encodeCmd_tset ch cb cmp r
  rw [decode_of_fieldOp_tset data hop, hch, hcb, hcmp]

theorem decode_data_irrel {cmd : Word} (data data' : Word) (h : fieldOp cmd ≠ 4) :
    decode cmd data = decode cmd data' := by
  have hop : (fieldOp cmd).toNat ≠ 4 := fun h4 => h (BitVec.eq_of_toNat_eq h4)
  unfold decode
  split
  case h_5 h4 => exact absurd h4 hop
  all_goals rfl

/-- Settles O4: TSET's word gives back its fields and DATA, and only the arm of opcode 4 mentions DATA. -/
theorem dataIsReadByTsetAlone : Obligations.DataIsReadByTsetAlone :=
  ⟨decode_encodeCmd_tset, fun _ data data' h => decode_data_irrel data data' h⟩

/-! ### Worked encodings -/

/-- Settles O5: each word of R115 is evaluated by the decoder. -/
theorem workedEncodings : Obligations.WorkedEncodings :=
  ⟨by decide, by decide, by decide, by decide, by decide, by decide, by decide⟩

end Sys2Proof

/-! ### Pseudo-instructions -/

namespace Sys2Proof.Machine

theorem AsmLine.words_congr {a b : AsmLine} (h : a.assemble = b.assemble) : a.words = b.words :=
  congrArg (Except.map encode) h

/-- TSETAT of a time of 48 bits splits it into CMP and target_round (30_encoding.md R114). -/
theorem AsmLine.assemble_tsetat (ch cb : Nat) {time : Nat} (h : time < 2 ^ 48) :
    (AsmLine.tsetat ch cb time).assemble =
      (AsmLine.tset ch cb (time % 0x10000) (time / 0x10000 % 0x100000000)).assemble := if_pos h

/-- GDETACH names its pin by a mask of one bit (30_encoding.md R114). -/
theorem AsmLine.assemble_gdetach (port pin flags : Nat) :
    (AsmLine.gdetach port pin flags).assemble = (AsmLine.gset port (1 <<< pin) flags 0).assemble := by
  rw [Nat.one_shiftLeft]; rfl

/-- Settles O6: each pseudo-instruction assembles to the same command as its expansion, so to the same words. -/
theorem pseudoInstructionsExpand : Obligations.PseudoInstructionsExpand :=
  ⟨fun ch cb _ h => AsmLine.words_congr (AsmLine.assemble_tsetat ch cb h), fun _ _ => rfl,
    fun port pin flags => AsmLine.words_congr (AsmLine.assemble_gdetach port pin flags), rfl, rfl⟩

end Sys2Proof.Machine
end

section
/-! The timer commands (40_timer.md R131 to R136): a command that names a channel either refuses it or acts on its slot,
logical time is one number of 48 bits, and the value of TQUERY is read back field by field. -/

namespace Sys2Proof

/-- Two adjacent fields that fill a word are its two halves. -/
theorem place_or_place_eq_append {m n : Nat} (hi : BitVec m) (lo : BitVec n) :
    place (m + n) hi n ||| place (m + n) lo 0 = hi ++ lo := by
  refine bits_ext fun k hk => ?_
  rw [BitVec.getLsbD_or, getLsbD_place, getLsbD_place, BitVec.getLsbD_append]
  by_cases below : k < n
  · simp [hk, below]
  · simp [hk, below, Nat.le_of_not_lt below]

end Sys2Proof

namespace Sys2Proof.Machine
open Sys2Proof.Claims

/-! ### TINIT -/

/-- Settles O8: TINIT disarms every channel, and that writes just the four elements R131 lists. -/
theorem tinitStartsAndDisarms : Obligations.TinitStartsAndDisarms := fun _ => rfl

/-! ### Logical time -/

/-- ROUND + OVF mod 2^32 (40_timer.md R133). -/
theorem State.toNat_effectiveRound (s : State) :
    s.effectiveRound.toNat = (s.round.toNat + if s.ovf then 1 else 0) % 2 ^ 32 := by
  rw [State.effectiveRound, BitVec.toNat_add]
  cases s.ovf <;> rfl

/-- LT is `round * 2^16 + counter`, with the overflow in flight counted (10_state.md R64). -/
theorem State.toNat_logicalTime (s : State) : s.logicalTime.toNat = Claims.logicalTime s := by
  calc s.logicalTime.toNat
      = (s.effectiveRound ++ s.cnt).toNat := congrArg BitVec.toNat (place_or_place_eq_append s.effectiveRound s.cnt)
    _ = s.effectiveRound.toNat * 2 ^ 16 + s.cnt.toNat := by
      rw [BitVec.toNat_append, ← Nat.shiftLeft_add_eq_or_of_lt s.cnt.isLt, Nat.shiftLeft_eq]
    _ = Claims.logicalTime s := by rw [s.toNat_effectiveRound]; rfl

/-- Settles O9: both reads answer a zero-extended value of the state, CNT or logical time. -/
theorem timeReadsAnswerTheCounters : Obligations.TimeReadsAnswerTheCounters := by
  intro s
  rw [← s.toNat_logicalTime]
  exact ⟨s.done_setWidth s.cnt, s.done_setWidth s.logicalTime⟩

/-! ### Commands that name a slot -/

/-- A slot that the list holds is a channel below N, and its channel is that slot. -/
theorem State.chan_of_getElem? {s : State} {c : Nat} {slot : Channel} (h : s.channels[c]? = some slot) :
    c < s.n ∧ s.chan c = slot := by
  obtain ⟨hc, hslot⟩ := List.getElem?_eq_some_iff.mp h
  exact ⟨hc, (State.chan_eq hc).trans hslot⟩

theorem exec_tunset_of_le {s : State} {ch : Nibble} (h : s.n ≤ ch.toNat) :
    exec (.tunset ch) s = .next { s with response := error .invalidChannel } := if_pos h

theorem exec_tunset_of_lt {s : State} {ch : Nibble} (h : ch.toNat < s.n) :
    exec (.tunset ch) s =
      .next { s with channels := s.channels.set ch.toNat (disarmed (s.chan ch.toNat)), response := ok 0 } :=
  if_neg (Nat.not_le_of_lt h)

theorem exec_tquery_of_le {s : State} {ch : Nibble} (h : s.n ≤ ch.toNat) :
    exec (.tquery ch) s = .next { s with response := error .invalidChannel } := if_pos h

theorem exec_tquery_of_lt {s : State} {ch : Nibble} (h : ch.toNat < s.n) :
    exec (.tquery ch) s = .next { s with response := ok (s.chan ch.toNat).query } :=
  if_neg (Nat.not_le_of_lt h)

/-- Settles O11: below N the slot is disarmed, and the disarmed slot keeps CCR and target_round. -/
theorem tunsetDisarmsSlot : Obligations.TunsetDisarmsSlot := by
  refine fun s ch => ⟨exec_tunset_of_le, fun slot hslot => ?_⟩
  obtain ⟨hc, rfl⟩ := State.chan_of_getElem? hslot
  exact exec_tunset_of_lt hc

/-! ### TQUERY -/

/-- The wide fields of TQUERY's value, and the five bits between CCIFG and the callback (40_timer.md R136). -/
theorem Channel.query_fields (ch : Channel) :
    let v := ch.query
    v.extractLsb' 0 32 = ch.targetRound ∧ v.extractLsb' 32 16 = ch.ccr ∧ v.extractLsb' 51 5 = 0 ∧
      v.extractLsb' 56 8 = ch.callback := by
  simp [Channel.query, BitVec.extractLsb'_or, extractLsb'_place_self, extractLsb'_place_disjoint,
    extractLsb'_placeBit_disjoint]

/-- The one-bit fields of TQUERY's value (40_timer.md R136). -/
theorem Channel.query_bits (ch : Channel) :
    let v := ch.query
    v.getLsbD 48 = ch.armed ∧ v.getLsbD 49 = ch.ccie ∧ v.getLsbD 50 = ch.ccifg := by
  simp [Channel.query]

/-- Settles O12: below N the value is the slot's query word, which has each field of R136 at its place. -/
theorem tqueryReadsSlot : Obligations.TqueryReadsSlot := by
  refine fun s ch => ⟨exec_tquery_of_le, fun slot hslot => ?_⟩
  obtain ⟨hc, rfl⟩ := State.chan_of_getElem? hslot
  obtain ⟨round, ccr, gap, callback⟩ := (s.chan ch.toNat).query_fields
  obtain ⟨armed, ccie, ccifg⟩ := (s.chan ch.toNat).query_bits
  exact ⟨_, exec_tquery_of_lt hc, round, ccr, armed, ccie, ccifg, gap, callback⟩

end Sys2Proof.Machine
end

section
/-! The GPIO commands on the pin table (41_gpio.md R174, R176): GINIT clears every entry and keeps the rest of each port,
and GQUERY either refuses or answers one entry, which is read back field by field. -/

namespace Sys2Proof.Machine
open Sys2Proof.Claims

/-! ### GINIT -/

theorem Pin.getElem_table (i : Fin 8) : Pin.table[i] = { cb := 0, deb := false, last := 0 } :=
  Vector.getElem_replicate i.isLt

/-- GINIT acts on the ports one by one (41_gpio.md R174). -/
theorem exec_ginit (s : State) :
    exec .ginit s = .next { s with ports := s.ports.map Port.clearPins, ginitDone := true, response := ok 0 } := rfl

/-- What clearing the pin tables makes of the port at one place of the list. -/
theorem eq_clearPins_of_getElem?_map {ports : List Port} {k : Nat} {q q' : Port} (hq : ports[k]? = some q)
    (hq' : (ports.map Port.clearPins)[k]? = some q') : q' = q.clearPins := by
  rw [List.getElem?_map, hq] at hq'
  exact (Option.some.inj hq').symm

/-- Settles O14: each port of the list is the old one with its pin table cleared, and a cleared table holds only reset
entries. -/
theorem ginitClearsPinTable : Obligations.GinitClearsPinTable := by
  refine fun s => ⟨_, exec_ginit s, List.length_map _, fun k q q' hq hq' => ?_⟩
  obtain rfl := eq_clearPins_of_getElem?_map hq hq'
  exact ⟨rfl, Pin.getElem_table⟩

/-! ### GQUERY -/

theorem exec_gquery_of_unsupported {s : State} {port : Nibble} (pin : Byte) (h : s.supported port.toNat = false) :
    exec (.gquery port pin) s = .next { s with response := error .invalidPort } := if_pos h

/-- On a supported port the PIN field decides: it names a pin, or the command is refused (41_gpio.md R176). -/
theorem exec_gquery_of_supported {s : State} {port : Nibble} (pin : Byte) (h : s.supported port.toNat = true) :
    exec (.gquery port pin) s =
      .next { s with response :=
        (pinOfField pin).elim (error .invalidPinSelection) (fun i => ok (s.port port.toNat).pins[i].query) } := by
  refine (if_neg (by simp [h])).trans ?_
  cases pinOfField pin <;> rfl

theorem exec_gquery_of_le {s : State} {port : Nibble} {pin : Byte} (h : s.supported port.toNat = true)
    (hpin : 8 ≤ pin.toNat) :
    exec (.gquery port pin) s = .next { s with response := error .invalidPinSelection } := by
  rw [exec_gquery_of_supported pin h, pinOfField_eq_none.mpr hpin, Option.elim_none]

theorem exec_gquery_of_pin {s : State} {port : Nibble} {pin : Byte} {i : Fin 8} (h : s.supported port.toNat = true)
    (hpin : pin.toNat = i.val) :
    exec (.gquery port pin) s = .next { s with response := ok (s.port port.toNat).pins[i].query } := by
  rw [exec_gquery_of_supported pin h, pinOfField_eq_some.mpr hpin, Option.elim_some]

/-- The fields of GQUERY's value: LAST, DEB and CB, and 0 between and above them (41_gpio.md R176). -/
theorem Pin.query_fields (e : Pin) :
    let v := e.query
    v.extractLsb' 0 16 = e.last ∧ v.getLsbD 16 = e.deb ∧ v.extractLsb' 17 7 = 0 ∧ v.extractLsb' 24 8 = e.cb ∧
      v.extractLsb' 32 32 = 0 := by
  simp [Pin.query, BitVec.extractLsb'_or, extractLsb'_place_self, extractLsb'_place_disjoint,
    extractLsb'_placeBit_disjoint]

/-- Settles O18: the port is checked before the pin, and a pin below 8 answers its entry's query word, which has each
field of R176 at its place. -/
theorem gqueryReadsPinEntry : Obligations.GqueryReadsPinEntry :=
  fun s port pin => ⟨exec_gquery_of_unsupported pin, exec_gquery_of_le,
    fun i hs hpin => ⟨_, exec_gquery_of_pin hs hpin, (s.port port.toNat).pins[i].query_fields⟩⟩

end Sys2Proof.Machine
end

section
/-! The return from a callback (42_control.md R212): ENG alone decides what CBDONE does. -/

namespace Sys2Proof.Machine
open Sys2Proof.Claims

/-! ### CBDONE -/

theorem exec_cbdone_of_idle {s : State} (h : s.eng = .idle) :
    exec .cbdone s = .next { s with response := error .noCallbackPending } := by
  change exec .cbdone s = s.fail .noCallbackPending
  rw [exec, execCbdone, h]

theorem exec_cbdone_of_waitTimer {s : State} {c : Nat} {cb : Byte} (h : s.eng = .waitTimer c cb) :
    exec .cbdone s = .next { s with eng := .idle, response := ok 0 } := by
  rw [exec, execCbdone, h]; rfl

/-- The return from a GPIO callback ends the dispatch of its port (60_exceptions.md R250), whether or not the port is
supported. -/
theorem exec_cbdone_of_waitGpio {s : State} {p : Nat} {i : Fin 8} {cb : Byte} (h : s.eng = .waitGpio p i cb) :
    exec .cbdone s = .next { s.dispatchFinish p with response := ok 0 } := by
  rw [exec, execCbdone, h]; rfl

/-- Settles O24: the three states of ENG, one clause each; `Port.finish` is the change of the port that R212 gives. -/
theorem cbdoneReturnsFromCallback : Obligations.CbdoneReturnsFromCallback :=
  fun _ => ⟨exec_cbdone_of_idle, fun _ _ => exec_cbdone_of_waitTimer,
    fun _ _ _ h _ => exec_cbdone_of_waitGpio h⟩

end Sys2Proof.Machine
end

section
/-! When the ENGINE may perform a service (60_exceptions.md R235, R236): the requested services are listed in the order
of their ranks, so the head of the list is its member of the least rank. -/

namespace Sys2Proof.Machine
open Sys2Proof.Claims

/-! ### Arbitration -/

/-- In a list of strictly rising ranks the head is the member of the least rank. -/
theorem head?_eq_some_iff_of_pairwise_rank_lt {l : List Service} (rising : l.Pairwise (rank · < rank ·))
    {svc : Service} : l.head? = some svc ↔ svc ∈ l ∧ ∀ other ∈ l, rank svc ≤ rank other := by
  cases l with
  | nil => simp
  | cons first later =>
    have ahead : ∀ other ∈ later, rank first < rank other := (List.pairwise_cons.mp rising).1
    rw [List.head?_cons, Option.some.injEq]
    constructor
    · rintro rfl
      exact ⟨List.mem_cons_self, List.forall_mem_cons.mpr ⟨Nat.le_refl _, fun other h => Nat.le_of_lt (ahead other h)⟩⟩
    · rintro ⟨mem, least⟩
      obtain rfl | late := List.mem_cons.mp mem
      · rfl
      · exact absurd (least first List.mem_cons_self) (Nat.not_le_of_lt (ahead svc late))

theorem State.mem_requested_iff {s : State} {svc : Service} : svc ∈ s.requested ↔ Requested s svc := by
  rw [State.mem_requested]
  cases svc <;> rfl

/-- The model lists the requested services in the order of SERVICE_ORDER = FIXED (60_exceptions.md R236). -/
theorem State.requested_pairwise_rank_lt (s : State) : s.requested.Pairwise (rank · < rank ·) := by
  have ports : (((List.range s.ports.length).filter (fun k => (s.port (s.portMin + k)).pend)).map
      (fun k => Service.port (s.portMin + k))).Pairwise (rank · < rank ·) := by
    refine List.pairwise_map.mpr ((List.pairwise_lt_range.filter _).imp fun {j k} (hjk : j < k) => ?_)
    simp only [rank]
    omega
  have optional (b : Bool) (svc : Service) : (if b then [svc] else []).Pairwise (rank · < rank ·) := by
    cases b <;> simp
  simp only [State.requested, List.pairwise_append]
  refine ⟨⟨⟨optional _ _, optional _ _, ?_⟩, optional _ _, ?_⟩, ports, ?_⟩
  · simp +contextual [rank]
  · simp +contextual [rank, or_imp]
  · intro svc hsvc other hother
    obtain ⟨k, _, rfl⟩ := List.mem_map.mp hother
    simp only [List.mem_append, List.mem_ite_nil_right, List.mem_singleton] at hsvc
    obtain (⟨_, rfl⟩ | ⟨_, rfl⟩) | ⟨_, rfl⟩ := hsvc <;> simp only [rank] <;> omega

/-- Settles O36: both service orders ask for a requested service, and FIXED asks for the head of the list, the one of the
least rank. -/
theorem engineEnabledExactly : Obligations.EngineEnabledExactly := by
  intro s svc
  simp only [State.enabled, Bool.and_eq_true, beq_iff_eq, and_assoc]
  cases hso : s.settings.serviceOrder with
  | any => simp [State.mem_requested_iff]
  | fixed => simp [head?_eq_some_iff_of_pairwise_rank_lt s.requested_pairwise_rank_lt, State.mem_requested_iff]

end Sys2Proof.Machine
end

section
/-! The compare services (60_exceptions.md R241, R242): a matched channel is one with a request, and both services clear
its flag before the expiry check. -/

namespace Sys2Proof.Machine
open Sys2Proof.Claims

/-! ### Compare services -/

theorem Channel.request_iff_matched {ch : Channel} : ch.request = true ↔ Matched ch := Bool.and_eq_true_iff

/-- A matched channel is below N: a read elsewhere answers the reset channel (log 11). -/
theorem State.lt_n_of_matched {s : State} {c : Nat} (h : Matched (s.chan c)) : c < s.n := by
  by_contra out
  rw [State.chan_out (Nat.le_of_not_lt out)] at h
  exact absurd h.1 Bool.false_ne_true

theorem State.cmp0Service_of_unmatched {s : State} (h : ¬Matched (s.chan 0)) :
    s.cmp0Service = { s with cpend0 := false }.countTimerSpurious :=
  if_neg (mt Channel.request_iff_matched.mp h)

theorem State.cmp0Service_of_matched {s : State} (h : Matched (s.chan 0)) :
    s.cmp0Service = ({ s with cpend0 := false }.modChan 0 Channel.clearFlag).expiryCheck 0 :=
  if_pos (Channel.request_iff_matched.mpr h)

theorem State.cmpvService_of_unmatched {s : State} (h : ∀ c, 1 ≤ c → ¬Matched (s.chan c)) :
    s.cmpvService = { s with cpendv := false }.countTimerSpurious := by
  obtain ⟨e, _⟩ | ⟨c, hc, _, request, _⟩ := s.cmpvService_cases
  · exact e
  · exact absurd (Channel.request_iff_matched.mp request) (h c hc)

/-- The channel that CMPV handles is the only lowest matched one. -/
theorem State.cmpvService_of_lowest_matched {s : State} {c : Nat} (hc : 1 ≤ c) (matched : Matched (s.chan c))
    (lowest : ∀ k, 1 ≤ k → k < c → ¬Matched (s.chan k)) :
    s.cmpvService = ({ s with cpendv := false }.modChan c Channel.clearFlag).expiryCheck c := by
  have request := Channel.request_iff_matched.mpr matched
  obtain ⟨_, none⟩ | ⟨d, hd, _, requestD, lowestD, e⟩ := s.cmpvService_cases
  · simp [none c hc (State.lt_n_of_matched matched)] at request
  · obtain less | rfl | more := Nat.lt_trichotomy c d
    · simp [lowestD c hc less] at request
    · exact e
    · exact absurd (Channel.request_iff_matched.mp requestD) (lowest d hd more)

/-- Settles O40: each clause is what its service does with the match it finds. -/
theorem compareServicesHandleLowestMatch : Obligations.CompareServicesHandleLowestMatch :=
  fun _ => ⟨State.cmp0Service_of_unmatched, State.cmp0Service_of_matched, State.cmpvService_of_unmatched,
    fun _ => State.cmpvService_of_lowest_matched⟩

end Sys2Proof.Machine
end

section
/-! The dispatches that invoke nothing (60_exceptions.md R245, R246, R248): each enters the port, counts one event and
finishes the dispatch, so the flag cleared on the way leaves no trace. -/

namespace Sys2Proof.Machine
open Sys2Proof.Claims

/-! ### Dispatches that invoke nothing -/

/-- The debounce filter measures the elapsed ticks modulo 2^16 (60_exceptions.md R248). -/
theorem toNat_sub_eq_elapsed (cnt last : Half) : (cnt - last).toNat = elapsed cnt last := by
  rw [BitVec.toNat_sub, elapsed]
  congr 1
  omega

theorem not_lt_sub_iff_elapsed_le {d cnt last : Half} : ¬d < cnt - last ↔ elapsed cnt last ≤ d.toNat := by
  rw [BitVec.not_lt, BitVec.le_def, toNat_sub_eq_elapsed]

section
variable {s : State} {p : Nat} {i : Fin 8}

/-- No pin is flagged (60_exceptions.md R245). -/
theorem State.portService_of_sentinel (hs : s.supported p = true) (hl : lowestPin (s.port p).ifg = none) :
    s.portService p =
      { s.setPort p { (s.port p).countSpurious with pend := false, savedIe := (s.port p).ie, ifg := 0 } with
        eng := .idle } := by
  obtain ⟨_, e⟩ | ⟨j, hj, _⟩ := State.portService_cases hs
  · exact e
  · simp [hl] at hj

/-- The lowest flagged pin was not enabled when the dispatch began (60_exceptions.md R246). -/
theorem State.portService_of_cancelled (hs : s.supported p = true) (hl : lowestPin (s.port p).ifg = some i)
    (he : (s.port p).ie.getLsbD i.val = false) :
    s.portService p =
      { s.setPort p { (s.port p).countSpurious with pend := false, savedIe := (s.port p).ie, ifg := 0 } with
        eng := .idle } := by
  obtain ⟨hn, _⟩ | ⟨j, hj, h⟩ := State.portService_cases hs
  · simp [hl] at hn
  obtain rfl : i = j := Option.some.inj (hl.symm.trans hj)
  obtain ⟨_, e⟩ | ⟨he', _⟩ | ⟨he', _⟩ := h
  · exact e
  · exact absurd (he.symm.trans he') Bool.false_ne_true
  · exact absurd (he.symm.trans he') Bool.false_ne_true

/-- The lowest flagged pin is debounced and fired at most D ticks ago (60_exceptions.md R248). -/
theorem State.portService_of_bounce (hs : s.supported p = true) (hl : lowestPin (s.port p).ifg = some i)
    (he : (s.port p).ie.getLsbD i.val = true) (hd : (s.port p).pins[i].deb = true)
    (ht : ¬s.settings.d < s.cnt - (s.port p).pins[i].last) :
    s.portService p =
      { s.setPort p { (s.port p).countBounce with pend := false, savedIe := (s.port p).ie, ifg := 0 } with
        eng := .idle } := by
  obtain ⟨hn, _⟩ | ⟨j, hj, h⟩ := State.portService_cases hs
  · simp [hl] at hn
  obtain rfl : i = j := Option.some.inj (hl.symm.trans hj)
  obtain ⟨he', _⟩ | ⟨_, _, _, e⟩ | ⟨_, _, ⟨hd', _⟩ | ⟨_, ht', _⟩, _⟩ := h
  · exact absurd (he'.symm.trans he) Bool.false_ne_true
  · exact e
  · exact absurd (hd'.symm.trans hd) Bool.false_ne_true
  · exact absurd ht' ht

end

/-- Settles O41: the sentinel, the cancelled lowest pin and the bounce, one clause each. -/
theorem dispatchAbsorbsSpuriousAndBounce : Obligations.DispatchAbsorbsSpuriousAndBounce :=
  fun _ _ hs => ⟨fun hq => State.portService_of_sentinel hs (lowestPin_eq_none.mpr hq),
    fun _ hl he => State.portService_of_cancelled hs (lowestPin_eq_some.mpr hl) he,
    fun _ hl he hd ht => State.portService_of_bounce hs (lowestPin_eq_some.mpr hl) he hd
      (not_lt_sub_iff_elapsed_le.mpr ht)⟩

end Sys2Proof.Machine
end

section
/-! The state right after reset (70_reset_and_hazards.md R301): every channel is the reset channel, and the ports
PORT_MIN..PORT_MAX are the reset ports with the external levels drawn for them. -/

namespace Sys2Proof.Machine
open Sys2Proof.Claims

/-! ### Reset -/

section
variable {prm : Params} {ext : Nat → Byte}

theorem State.channel_eq_reset_of_mem_resetWith {ch : Channel} (h : ch ∈ (State.resetWith prm ext).channels) :
    ch = Channel.reset := List.eq_of_mem_replicate h

/-- The list of ports is as long as PORT_MIN..PORT_MAX, and empty where PORT_MAX < PORT_MIN. -/
theorem State.length_ports_resetWith : (State.resetWith prm ext).ports.length = prm.portMax + 1 - prm.portMin := by
  simp [State.resetWith]

theorem State.supported_resetWith_iff {p : Nat} :
    (State.resetWith prm ext).supported p = true ↔ prm.portMin ≤ p ∧ p ≤ prm.portMax := by
  have hmin : (State.resetWith prm ext).portMin = prm.portMin := rfl
  rw [State.supported_iff, State.length_ports_resetWith, hmin]
  omega

/-- Port `p` is the entry at `p - PORT_MIN`, so its levels are those drawn for `p` itself. -/
theorem State.port_resetWith {p : Nat} (h : (State.resetWith prm ext).supported p = true) :
    (State.resetWith prm ext).port p = Port.reset (ext p) := by
  obtain ⟨hmin, -⟩ := State.supported_resetWith_iff.mp h
  rw [State.port_eq h]
  simp [State.resetWith, Nat.add_sub_cancel' hmin]

end

/-- Right after reset every pin is an input: Level(p) = EXT[p] (70_reset_and_hazards.md R301). -/
theorem pinLevel_reset (v : Byte) (i : Nat) : pinLevel (Port.reset v) i = v.getLsbD i := by
  simp [pinLevel, Port.reset]

/-- Settles O44: outside the channels and the ports the values are those `State.resetWith` writes down; a channel of the
list and a supported port are the reset ones. -/
theorem resetValues : Obligations.ResetValues := by
  intro prm ext s
  have hchannels : ∀ ch ∈ s.channels, ch.ccr = 0 ∧ ch.ccie = false ∧ ch.ccifg = false ∧ ch.armed = false ∧
      ch.targetRound = 0 ∧ ch.callback = 0 := by
    intro ch hch
    obtain rfl := State.channel_eq_reset_of_mem_resetWith hch
    exact ⟨rfl, rfl, rfl, rfl, rfl, rfl⟩
  refine ⟨rfl, rfl, rfl, rfl, List.length_replicate, hchannels, rfl, rfl, rfl, fun _ => State.supported_resetWith_iff,
    fun p hp => ?_, rfl, rfl, rfl, rfl, rfl, rfl, rfl⟩
  have hport : s.port p = Port.reset (ext p) := State.port_resetWith hp
  rw [hport]
  refine ⟨rfl, rfl, rfl, rfl, rfl, rfl, rfl, rfl, rfl, rfl, rfl, fun i => ?_, fun i => pinLevel_reset _ i.val⟩
  have hpin : (Port.reset (ext p)).pins[i] = { cb := 0, deb := false, last := 0 } := Pin.getElem_table i
  simp [hpin]

end Sys2Proof.Machine
end

section
/-! The encoder against the decoder, both ways (30_encoding.md R102, R106, R107, R113): a word put together from the
fields of its format gives each field back, a word is put together from the fields it holds, and each opcode's arm of the
decoder reads just those fields. -/

namespace Sys2Proof

/-! ### A word gives back the fields it is put together from -/

/-- Format TC (30_encoding.md R102): OP and CH. -/
theorem fields_formatTC (op ch : Nibble) :
    let cmd := placeOp op ||| place 32 ch 24
    fieldOp cmd = op ∧ fieldHi cmd = ch ∧ cmd.extractLsb' 0 24 = 0 := by
  simp [placeOp, fieldOp, fieldHi, BitVec.extractLsb'_or, extractLsb'_place_self, extractLsb'_place_disjoint]

/-- Format G (30_encoding.md R102). -/
theorem fields_formatG (op port : Nibble) (mask flags cb : Byte) :
    let cmd := placeOp op ||| place 32 port 24 ||| place 32 mask 16 ||| place 32 flags 8 ||| place 32 cb 0
    fieldOp cmd = op ∧ fieldHi cmd = port ∧ fieldMid cmd = mask ∧ fieldFlags cmd = flags ∧ fieldLow cmd = cb := by
  simp [placeOp, fieldOp, fieldHi, fieldMid, fieldFlags, fieldLow, BitVec.extractLsb'_or, extractLsb'_place_self,
    extractLsb'_place_disjoint]

/-- Format GQ (30_encoding.md R102). -/
theorem fields_formatGQ (op port : Nibble) (pin : Byte) :
    let cmd := placeOp op ||| place 32 port 24 ||| place 32 pin 16
    fieldOp cmd = op ∧ fieldHi cmd = port ∧ fieldMid cmd = pin ∧ cmd.extractLsb' 0 16 = 0 := by
  simp [placeOp, fieldOp, fieldHi, fieldMid, BitVec.extractLsb'_or, extractLsb'_place_self,
    extractLsb'_place_disjoint]

/-- Formats PR and DG (30_encoding.md R102): OP, PORT, and the code of a register or a select. -/
theorem fields_formatPR (op port code : Nibble) :
    let cmd := placeOp op ||| place 32 port 24 ||| place 32 code 20
    fieldOp cmd = op ∧ fieldHi cmd = port ∧ fieldSel cmd = code ∧ cmd.extractLsb' 0 20 = 0 := by
  simp [placeOp, fieldOp, fieldHi, fieldSel, BitVec.extractLsb'_or, extractLsb'_place_self,
    extractLsb'_place_disjoint]

/-- Format PW (30_encoding.md R102). -/
theorem fields_formatPW (op port code : Nibble) (value : Byte) :
    let cmd := placeOp op ||| place 32 port 24 ||| place 32 code 20 ||| place 32 value 0
    fieldOp cmd = op ∧ fieldHi cmd = port ∧ fieldSel cmd = code ∧ cmd.extractLsb' 8 12 = 0 ∧ fieldLow cmd = value := by
  simp [placeOp, fieldOp, fieldHi, fieldSel, fieldLow, BitVec.extractLsb'_or, extractLsb'_place_self,
    extractLsb'_place_disjoint]

/-! ### What each format decodes to -/

theorem portRegOfCode_eq_some {code : Nibble} {reg : PortReg} : portRegOfCode code = some reg ↔ reg.code = code := by
  cases reg <;> revert code <;> decide

theorem diagSelOfCode_eq_some {code : Nibble} {sel : DiagSel} : diagSelOfCode code = some sel ↔ sel.code = code := by
  cases sel <;> revert code <;> decide

theorem ite_ok_eq_ok {c : Prop} [Decidable c] {i j : Instr} {e : DecodeError} :
    (if c then Except.ok j else .error e) = .ok i ↔ c ∧ j = i := by
  by_cases h : c <;> simp [h]

theorem requireZero_eq_ok {w : Nat} {reserved : BitVec w} {i j : Instr} :
    requireZero reserved j = .ok i ↔ reserved = 0 ∧ j = i := ite_ok_eq_ok

theorem ite_requireZero_eq_ok {c : Prop} [Decidable c] {w : Nat} {reserved : BitVec w} {i j : Instr} {e : DecodeError} :
    (if c then requireZero reserved j else .error e) = .ok i ↔ c ∧ reserved = 0 ∧ j = i := by
  rw [← requireZero_eq_ok]
  by_cases h : c <;> simp [h]

theorem decodeGset_eq_ok {cmd : Word} {i : Instr} :
    decodeGset cmd = .ok i ↔ flagsLegal (fieldFlags cmd) = true ∧
      .gset (fieldHi cmd) (fieldMid cmd) (fieldFlags cmd) (fieldLow cmd) = i := ite_ok_eq_ok

theorem decodePrd_eq_ok {cmd : Word} {i : Instr} :
    decodePrd cmd = .ok i ↔ ∃ reg : PortReg, reg.code = fieldSel cmd ∧ cmd.extractLsb' 0 20 = 0 ∧
      .prd (fieldHi cmd) reg = i := by
  simp only [← portRegOfCode_eq_some, decodePrd]
  cases portRegOfCode (fieldSel cmd) with
  | none => simp
  | some reg => simp [requireZero_eq_ok]

theorem decodePwr_eq_ok {cmd : Word} {i : Instr} :
    decodePwr cmd = .ok i ↔ ∃ reg : PortReg, reg.code = fieldSel cmd ∧ reg.writable = true ∧
      cmd.extractLsb' 8 12 = 0 ∧ .pwr (fieldHi cmd) reg (fieldLow cmd) = i := by
  simp only [← portRegOfCode_eq_some, decodePwr]
  cases portRegOfCode (fieldSel cmd) with
  | none => simp
  | some reg => simp only [ite_requireZero_eq_ok, Option.some.injEq, exists_eq_left']

theorem decodeDiag_eq_ok {cmd : Word} {i : Instr} :
    decodeDiag cmd = .ok i ↔ ∃ sel : DiagSel, sel.code = fieldSel cmd ∧
      (sel.takesPort || fieldHi cmd == 0) = true ∧ cmd.extractLsb' 0 20 = 0 ∧ .diag (fieldHi cmd) sel = i := by
  simp only [← diagSelOfCode_eq_some, decodeDiag]
  cases diagSelOfCode (fieldSel cmd) with
  | none => simp
  | some sel => simp only [ite_requireZero_eq_ok, Option.some.injEq, exists_eq_left']

section
variable {cmd : Word} (data : Word)

/-! The arm that an opcode picks, for the opcodes whose format has an operand (30_encoding.md R106). -/

theorem decode_of_fieldOp_tunset (h : fieldOp cmd = 5) :
    decode cmd data = requireZero (cmd.extractLsb' 0 24) (.tunset (fieldHi cmd)) := by simp [decode, h]

theorem decode_of_fieldOp_tquery (h : fieldOp cmd = 6) :
    decode cmd data = requireZero (cmd.extractLsb' 0 24) (.tquery (fieldHi cmd)) := by simp [decode, h]

theorem decode_of_fieldOp_gset (h : fieldOp cmd = 8) : decode cmd data = decodeGset cmd := by simp [decode, h]

theorem decode_of_fieldOp_gquery (h : fieldOp cmd = 9) :
    decode cmd data = requireZero (cmd.extractLsb' 0 16) (.gquery (fieldHi cmd) (fieldMid cmd)) := by simp [decode, h]

theorem decode_of_fieldOp_prd (h : fieldOp cmd = 0xA) : decode cmd data = decodePrd cmd := by simp [decode, h]

theorem decode_of_fieldOp_pwr (h : fieldOp cmd = 0xB) : decode cmd data = decodePwr cmd := by simp [decode, h]

theorem decode_of_fieldOp_diag (h : fieldOp cmd = 0xE) : decode cmd data = decodeDiag cmd := by simp [decode, h]

end

/-- Settles O1: each command's word gives its fields back, and the arm of its opcode puts them into the same command. -/
theorem decodeOfEncode : Obligations.DecodeOfEncode := by
  intro i wf
  cases i with
  | nop => rfl
  | tinit => rfl
  | tnow => rfl
  | tnowx => rfl
  | ginit => rfl
  | cbdone => rfl
  | intctl e => cases e <;> rfl
  | tset ch cb cmp r => exact decode_encodeCmd_tset ch cb cmp r r
  | tunset ch =>
    obtain ⟨op, hi, zero⟩ := fields_formatTC 5 ch
    exact (decode_of_fieldOp_tunset _ op).trans (requireZero_eq_ok.mpr ⟨zero, by rw [hi]⟩)
  | tquery ch =>
    obtain ⟨op, hi, zero⟩ := fields_formatTC 6 ch
    exact (decode_of_fieldOp_tquery _ op).trans (requireZero_eq_ok.mpr ⟨zero, by rw [hi]⟩)
  | gset port mask flags cb =>
    obtain ⟨op, hi, mid, fl, low⟩ := fields_formatG 8 port mask flags cb
    exact (decode_of_fieldOp_gset _ op).trans (decodeGset_eq_ok.mpr ⟨by rw [fl]; exact wf, by rw [hi, mid, fl, low]⟩)
  | gquery port pin =>
    obtain ⟨op, hi, mid, zero⟩ := fields_formatGQ 9 port pin
    exact (decode_of_fieldOp_gquery _ op).trans (requireZero_eq_ok.mpr ⟨zero, by rw [hi, mid]⟩)
  | prd port reg =>
    obtain ⟨op, hi, code, zero⟩ := fields_formatPR 0xA port reg.code
    exact (decode_of_fieldOp_prd _ op).trans (decodePrd_eq_ok.mpr ⟨reg, code.symm, zero, by rw [hi]⟩)
  | pwr port reg value =>
    obtain ⟨op, hi, code, zero, low⟩ := fields_formatPW 0xB port reg.code value
    exact (decode_of_fieldOp_pwr _ op).trans
      (decodePwr_eq_ok.mpr ⟨reg, code.symm, wf, zero, by rw [hi, low]⟩)
  | diag port sel =>
    obtain ⟨op, hi, code, zero⟩ := fields_formatPR 0xE port sel.code
    exact (decode_of_fieldOp_diag _ op).trans
      (decodeDiag_eq_ok.mpr ⟨sel, code.symm, by rw [hi]; exact wf, zero, by rw [hi]⟩)

/-! ### A word is put together from the fields it holds -/

/-- A field of `a + b` bits is its upper `b` bits and its lower `a` bits. -/
theorem place_extractLsb'_add {n : Nat} (x : BitVec n) (lo a b : Nat) :
    place n (x.extractLsb' lo (a + b)) lo =
      place n (x.extractLsb' (lo + a) b) (lo + a) ||| place n (x.extractLsb' lo a) lo := by
  refine bits_ext fun k hk => ?_
  simp only [BitVec.getLsbD_or, getLsbD_place, BitVec.getLsbD_extractLsb', hk, decide_true, Bool.true_and]
  by_cases hlo : lo ≤ k
  · rw [Nat.add_sub_cancel' hlo]
    by_cases below : k < lo + a
    · have ha : k - lo < a := by omega
      have hab : k - lo < a + b := by omega
      simp [hlo, Nat.not_le_of_lt below, ha, hab]
    · have above : lo + a ≤ k := Nat.le_of_not_lt below
      have ha : ¬k - lo < a := by omega
      have hb : k - (lo + a) < b ↔ k - lo < a + b := by omega
      simp [hlo, above, ha, hb, Nat.add_sub_cancel' above]
  · have above : ¬lo + a ≤ k := by omega
    simp [hlo, above]

/-- A field that is 0 places nothing. -/
@[simp] theorem place_zero {w n : Nat} (lo : Nat) : place n (0 : BitVec w) lo = 0 := by
  refine bits_ext fun k hk => ?_
  rw [getLsbD_place]
  simp

/-- A one-bit field is placed by its bit. -/
theorem place_extractLsb'_one {n : Nat} (x : BitVec n) (lo : Nat) :
    place n (x.extractLsb' lo 1) lo = placeBit n (x.getLsbD lo) lo := by
  refine congrArg (place n · lo) (bits_ext fun k hk => ?_)
  obtain rfl : k = 0 := by omega
  simp

section
variable (cmd : Word)

/-- Every word is its opcode and its 28 lower bits. -/
theorem word_eq_op : cmd = placeOp (fieldOp cmd) ||| place 32 (cmd.extractLsb' 0 28) 0 :=
  calc cmd = place 32 (cmd.extractLsb' 0 (28 + 4)) 0 := bits_ext fun k hk => by simp [hk]
    _ = _ := place_extractLsb'_add cmd 0 28 4

/-- Below the opcode: CH or PORT, and the 24 lower bits. -/
theorem word_eq_hi :
    cmd = placeOp (fieldOp cmd) ||| place 32 (fieldHi cmd) 24 ||| place 32 (cmd.extractLsb' 0 24) 0 :=
  calc cmd = placeOp (fieldOp cmd) ||| place 32 (cmd.extractLsb' 0 (24 + 4)) 0 := word_eq_op cmd
    _ = _ := by rw [place_extractLsb'_add, BitVec.or_assoc]; rfl

/-- Below CH or PORT: a field of 8 bits, and the 16 lower bits. -/
theorem word_eq_mid :
    cmd = placeOp (fieldOp cmd) ||| place 32 (fieldHi cmd) 24 ||| place 32 (fieldMid cmd) 16 |||
      place 32 (cmd.extractLsb' 0 16) 0 :=
  calc cmd = placeOp (fieldOp cmd) ||| place 32 (fieldHi cmd) 24 ||| place 32 (cmd.extractLsb' 0 (16 + 8)) 0 :=
        word_eq_hi cmd
    _ = _ := by rw [place_extractLsb'_add, BitVec.or_assoc _ (place 32 (fieldMid cmd) 16)]; rfl

/-- Below the 8-bit field: FLAGS and the lowest byte. -/
theorem word_eq_flags :
    cmd = placeOp (fieldOp cmd) ||| place 32 (fieldHi cmd) 24 ||| place 32 (fieldMid cmd) 16 |||
      place 32 (fieldFlags cmd) 8 ||| place 32 (fieldLow cmd) 0 :=
  calc cmd = placeOp (fieldOp cmd) ||| place 32 (fieldHi cmd) 24 ||| place 32 (fieldMid cmd) 16 |||
        place 32 (cmd.extractLsb' 0 (8 + 8)) 0 := word_eq_mid cmd
    _ = _ := by rw [place_extractLsb'_add, BitVec.or_assoc _ (place 32 (fieldFlags cmd) 8)]; rfl

/-- Below PORT: the code of a register or a select, and the 20 lower bits. -/
theorem word_eq_sel :
    cmd = placeOp (fieldOp cmd) ||| place 32 (fieldHi cmd) 24 ||| place 32 (fieldSel cmd) 20 |||
      place 32 (cmd.extractLsb' 0 20) 0 :=
  calc cmd = placeOp (fieldOp cmd) ||| place 32 (fieldHi cmd) 24 ||| place 32 (cmd.extractLsb' 0 (20 + 4)) 0 :=
        word_eq_hi cmd
    _ = _ := by rw [place_extractLsb'_add, BitVec.or_assoc _ (place 32 (fieldSel cmd) 20)]; rfl

/-- Below the code: 12 bits between it and the lowest byte. -/
theorem word_eq_value :
    cmd = placeOp (fieldOp cmd) ||| place 32 (fieldHi cmd) 24 ||| place 32 (fieldSel cmd) 20 |||
      place 32 (cmd.extractLsb' 8 12) 8 ||| place 32 (fieldLow cmd) 0 :=
  calc cmd = placeOp (fieldOp cmd) ||| place 32 (fieldHi cmd) 24 ||| place 32 (fieldSel cmd) 20 |||
        place 32 (cmd.extractLsb' 0 (8 + 12)) 0 := word_eq_sel cmd
    _ = _ := by rw [place_extractLsb'_add, BitVec.or_assoc _ (place 32 (cmd.extractLsb' 8 12) 8)]; rfl

/-- Below the opcode: 27 bits and bit 0. -/
theorem word_eq_bit :
    cmd = placeOp (fieldOp cmd) ||| place 32 (cmd.extractLsb' 1 27) 1 ||| placeBit 32 (cmd.getLsbD 0) 0 :=
  calc cmd = placeOp (fieldOp cmd) ||| place 32 (cmd.extractLsb' 0 (1 + 27)) 0 := word_eq_op cmd
    _ = _ := by rw [place_extractLsb'_add, BitVec.or_assoc, ← place_extractLsb'_one]

end

/-- A word of format N, whose 28 lower bits are 0 (30_encoding.md R102). -/
theorem placeOp_eq_word {cmd : Word} {op : Nibble} (hop : fieldOp cmd = op) (zero : cmd.extractLsb' 0 28 = 0) :
    placeOp op = cmd := by
  conv_rhs => rw [word_eq_op cmd, hop, zero, place_zero]
  exact BitVec.or_zero.symm

/-- A word of format TC, whose 24 lower bits are 0 (30_encoding.md R102). -/
theorem formatTC_eq_word {cmd : Word} {op : Nibble} (hop : fieldOp cmd = op) (zero : cmd.extractLsb' 0 24 = 0) :
    placeOp op ||| place 32 (fieldHi cmd) 24 = cmd := by
  conv_rhs => rw [word_eq_hi cmd, hop, zero, place_zero]
  exact BitVec.or_zero.symm

/-- A word of format PR or DG, whose 20 lower bits are 0 (30_encoding.md R102). -/
theorem formatPR_eq_word {cmd : Word} {op : Nibble} (hop : fieldOp cmd = op) (zero : cmd.extractLsb' 0 20 = 0) :
    placeOp op ||| place 32 (fieldHi cmd) 24 ||| place 32 (fieldSel cmd) 20 = cmd := by
  conv_rhs => rw [word_eq_sel cmd, hop, zero, place_zero]
  exact BitVec.or_zero.symm

/-- Settles O2: the arm of the word's opcode says which fields the command has and which bits are 0, and the word is put
together from those fields. -/
theorem encodeOfDecode : Obligations.EncodeOfDecode := by
  intro cmd data i h
  have opcode {op : Nibble} (hop : (fieldOp cmd).toNat = op.toNat) : fieldOp cmd = op := BitVec.eq_of_toNat_eq hop
  unfold decode at h
  split at h
  case h_1 op | h_2 op | h_3 op | h_4 op | h_8 op | h_14 op =>
    obtain ⟨zero, rfl⟩ := requireZero_eq_ok.mp h
    exact ⟨rfl, placeOp_eq_word (opcode op) zero⟩
  case h_5 op =>
    cases h
    refine ⟨rfl, ?_⟩
    conv_rhs => rw [word_eq_mid cmd, opcode (op := 4) op]
    rfl
  case h_6 op | h_7 op =>
    obtain ⟨zero, rfl⟩ := requireZero_eq_ok.mp h
    exact ⟨rfl, formatTC_eq_word (opcode op) zero⟩
  case h_9 op =>
    obtain ⟨legal, rfl⟩ := decodeGset_eq_ok.mp h
    refine ⟨legal, ?_⟩
    conv_rhs => rw [word_eq_flags cmd, opcode (op := 8) op]
    rfl
  case h_10 op =>
    obtain ⟨zero, rfl⟩ := requireZero_eq_ok.mp h
    refine ⟨rfl, ?_⟩
    conv_rhs => rw [word_eq_mid cmd, opcode (op := 9) op, zero, place_zero]
    exact BitVec.or_zero.symm
  case h_11 op =>
    obtain ⟨reg, code, zero, rfl⟩ := decodePrd_eq_ok.mp h
    refine ⟨rfl, ?_⟩
    rw [encodeCmd, code]
    exact formatPR_eq_word (opcode op) zero
  case h_12 op =>
    obtain ⟨reg, code, writable, zero, rfl⟩ := decodePwr_eq_ok.mp h
    refine ⟨writable, ?_⟩
    conv_rhs => rw [word_eq_value cmd, opcode (op := 0xB) op, zero, place_zero]
    rw [encodeCmd, code]
    exact congrArg (· ||| place 32 (fieldLow cmd) 0) BitVec.or_zero.symm
  case h_13 op =>
    obtain ⟨zero, rfl⟩ := requireZero_eq_ok.mp h
    refine ⟨rfl, ?_⟩
    conv_rhs => rw [word_eq_bit cmd, opcode (op := 0xC) op, zero, place_zero]
    exact congrArg (· ||| placeBit 32 (cmd.getLsbD 0) 0) BitVec.or_zero.symm
  case h_15 op =>
    obtain ⟨sel, code, legal, zero, rfl⟩ := decodeDiag_eq_ok.mp h
    refine ⟨legal, ?_⟩
    rw [encodeCmd, code]
    exact formatPR_eq_word (opcode op) zero
  case h_16 => cases h

end Sys2Proof

namespace Sys2Proof.Machine

/-! ### Assembly lines -/

@[simp] theorem fitField_toNat {w : Nat} (v : BitVec w) : fitField w v.toNat = .ok v := by
  simp [fitField, v.isLt]

/-- Legal FLAGS are below 64 (30_encoding.md R102, R113). -/
theorem fitFlags_toNat {flags : Byte} (h : flagsLegal flags = true) : fitFlags flags.toNat = .ok flags := by
  have small : flags.toNat < 2 ^ 6 := by revert flags; decide
  have fits : flags.toNat < 2 ^ 8 := flags.isLt
  rw [fitFlags, if_pos fits, if_pos small, BitVec.ofNat_toNat, BitVec.setWidth_eq]

/-- The line that spells a command, its operands as numbers (30_encoding.md R113). -/
def lineOf : Instr → AsmLine
  | .nop => .nop
  | .tinit => .tinit
  | .tnow => .tnow
  | .tnowx => .tnowx
  | .tset ch cb cmp round => .tset ch.toNat cb.toNat cmp.toNat round.toNat
  | .tunset ch => .tunset ch.toNat
  | .tquery ch => .tquery ch.toNat
  | .ginit => .ginit
  | .gset port mask flags cb => .gset port.toNat mask.toNat flags.toNat cb.toNat
  | .gquery port pin => .gquery port.toNat pin.toNat
  | .prd port reg => .prd port.toNat reg
  | .pwr port reg value => .pwr port.toNat reg value.toNat
  | .intctl e => .intctl (bit e).toNat
  | .cbdone => .cbdone
  | .diag port sel => if sel.takesPort then .diagPort sel port.toNat else .diag sel

/-- A well-formed command's line assembles to it: every operand fits its field. -/
theorem assemble_lineOf {i : Instr} (wf : i.wellFormed = true) : (lineOf i).assemble = .ok i := by
  cases i with
  | nop => rfl
  | tinit => rfl
  | tnow => rfl
  | tnowx => rfl
  | ginit => rfl
  | cbdone => rfl
  | intctl e => cases e <;> rfl
  | tset ch cb cmp round => simp only [lineOf, AsmLine.assemble, asmTset, fitField_toNat]; rfl
  | tunset ch => simp only [lineOf, AsmLine.assemble, fitField_toNat]; rfl
  | tquery ch => simp only [lineOf, AsmLine.assemble, fitField_toNat]; rfl
  | gset port mask flags cb =>
    simp only [lineOf, AsmLine.assemble, asmGset, fitField_toNat, fitFlags_toNat (flags := flags) wf]; rfl
  | gquery port pin => simp only [lineOf, AsmLine.assemble, fitField_toNat]; rfl
  | prd port reg => simp only [lineOf, AsmLine.assemble, fitField_toNat]; rfl
  | pwr port reg value => simp only [lineOf, AsmLine.assemble, fitField_toNat]; rfl
  | diag port sel =>
    cases takes : sel.takesPort with
    | true =>
      simp only [lineOf, takes, if_true, AsmLine.assemble, fitField_toNat]; rfl
    | false =>
      have none : port = 0 := by simpa [Instr.wellFormed, takes] using wf
      simp [lineOf, takes, AsmLine.assemble, none]

/-- Settles O7: the command's own line assembles to it, so to its words. -/
theorem everyCommandHasAnAssemblyLine : Obligations.EveryCommandHasAnAssemblyLine :=
  fun i wf => ⟨lineOf i, congrArg (Except.map encode) (assemble_lineOf wf)⟩

end Sys2Proof.Machine
end

section
/-! The commands one by one (40_timer.md R131 to R135, 41_gpio.md R174 to R178, 42_control.md R210 to R213): each check
that refuses, in the order of 60_exceptions.md R254, and the whole effect where none does. -/

namespace Sys2Proof.Machine
open Sys2Proof.Claims

/-! ### TSET -/

section
variable {s : State} {ch : Nibble} (cb : Byte) (cmp : Half) (r : Word)

theorem exec_tset_of_stopped (h : s.run = false) :
    exec (.tset ch cb cmp r) s = .next { s with faultUninit := true, response := error .notInitialised } := if_pos h

theorem exec_tset_of_le (running : s.run = true) (h : s.n ≤ ch.toNat) :
    exec (.tset ch cb cmp r) s = .next { s with response := error .invalidChannel } :=
  (if_neg (by simp [running])).trans (if_pos h)

theorem exec_tset_of_lt (running : s.run = true) (h : ch.toNat < s.n) :
    exec (.tset ch cb cmp r) s = (s.modChan ch.toNat (Channel.arm cmp r cb)).done 0 :=
  (if_neg (by simp [running])).trans (if_neg (Nat.not_le_of_lt h))

end

/-- Settles O10: RUN is checked before the channel, and arming writes the whole slot. -/
theorem tsetArmsSlot : Obligations.TsetArmsSlot :=
  fun _ _ cb cmp r => ⟨exec_tset_of_stopped cb cmp r, exec_tset_of_le cb cmp r, exec_tset_of_lt cb cmp r⟩

/-! ### Commands that clear -/

@[simp] theorem Channel.disarm_disarm (ch : Channel) : ch.disarm.disarm = ch.disarm := rfl

@[simp] theorem Port.clearPins_clearPins (q : Port) : q.clearPins.clearPins = q.clearPins := rfl

/-- Disarming a channel twice is disarming it once. -/
theorem State.disarm_disarm {s : State} {c : Nat} (h : c < s.n) : (s.disarm c).disarm c = s.disarm c := by
  have slot : (s.disarm c).chan c = (s.chan c).disarm := by
    rw [State.disarm, State.chan_modChan c _ h, if_pos rfl]
  apply State.ext <;> simp [slot]

/-- Settles O13: what each of the three commands clears is already clear the second time. -/
theorem clearingCommandsAreIdempotent : Obligations.ClearingCommandsAreIdempotent := by
  rintro s i (rfl | rfl | ⟨ch, rfl⟩)
  · refine ⟨_, rfl, congrArg Host.Outcome.next ?_⟩
    apply State.ext <;> simp
  · refine ⟨_, exec_ginit s, congrArg Host.Outcome.next ?_⟩
    apply State.ext <;> simp [ok]
  · by_cases out : s.n ≤ ch.toNat
    · exact ⟨_, exec_tunset_of_le out, exec_tunset_of_le out⟩
    · have inside : ch.toNat < s.n := Nat.lt_of_not_le out
      have again : ch.toNat < ((s.disarm ch.toNat).respond .ok 0).n := by simpa using inside
      refine ⟨_, exec_tunset_of_lt inside, (exec_tunset_of_lt again).trans (congrArg Host.Outcome.next ?_)⟩
      exact congrArg (State.respond · .ok 0) (State.disarm_disarm inside)

/-! ### A callback of the port is outstanding or not (41_gpio.md R172) -/

theorem State.serving_of_waitGpio {s : State} {p : Nat} {i : Fin 8} {cb : Byte} (h : s.eng = .waitGpio p i cb) :
    s.serving p = true := by simp [State.serving, h]

theorem State.serving_of_ne_waitGpio {s : State} {p : Nat} (h : ∀ i cb, s.eng ≠ .waitGpio p i cb) :
    s.serving p = false := by
  unfold State.serving
  split
  case h_1 q i cb heng =>
    have other : q ≠ p := fun e => h i cb (by rw [heng, e])
    simpa using other
  all_goals rfl

/-! ### GSET -/

theorem flagsLegal_iff {flags : Byte} : flagsLegal flags = true ↔ flags.getLsbD 6 = false ∧ flags.getLsbD 7 = false := by
  revert flags; decide

section
variable {s : State} {port : Nibble} {mask flags : Byte} (cb : Byte) (legal : flagsLegal flags = true)
include legal

theorem exec_gset_of_uninit (h : s.ginitDone = false) :
    exec (.gset port mask flags cb) s =
      .next { s with faultUninit := true, response := error .notInitialised } :=
  (if_neg (by simp [legal])).trans (if_pos h)

variable (hg : s.ginitDone = true)
include hg

theorem exec_gset_of_unsupported (h : s.supported port.toNat = false) :
    exec (.gset port mask flags cb) s = .next { s with response := error .invalidPort } :=
  (if_neg (by simp [legal])).trans ((if_neg (by simp [hg])).trans (if_pos h))

variable (hs : s.supported port.toNat = true)
include hs

theorem exec_gset_of_mask_zero (h : mask = 0) :
    exec (.gset port mask flags cb) s = .next { s with response := error .invalidPinSelection } :=
  (if_neg (by simp [legal])).trans ((if_neg (by simp [hg])).trans ((if_neg (by simp [hs])).trans (if_pos h)))

variable (hm : mask ≠ 0)
include hm

/-- Past the checks, DISABLE decides. -/
theorem exec_gset_of_mask_ne_zero :
    exec (.gset port mask flags cb) s =
      if flags.getLsbD 2 then (s.ieWrite port.toNat (s.ieRead port.toNat &&& ~~~mask)).done 0
      else (s.gsetConfigure port.toNat mask (decodeFlags flags) cb).done 0 :=
  (if_neg (by simp [legal])).trans ((if_neg (by simp [hg])).trans ((if_neg (by simp [hs])).trans (if_neg hm)))

end

/-- Settles O15: the three checks of GSET, one clause each. -/
theorem gsetErrorsInOrder : Obligations.GsetErrorsInOrder := by
  intro s port mask flags cb h6 h7
  have legal := flagsLegal_iff.mpr ⟨h6, h7⟩
  refine ⟨exec_gset_of_uninit cb legal, fun hg out => exec_gset_of_unsupported cb legal hg ?_,
    fun hg hmin hmax => exec_gset_of_mask_zero cb legal hg ?_⟩
  · rw [← Bool.not_eq_true]
    simpa [State.supported] using out
  · simp [State.supported, hmin, hmax]

/-- Settles O16: the enables are read and written where IERead and IEWrite go, to IE or to SAVED_IE. -/
theorem gsetDisableClearsEnablesOnly : Obligations.GsetDisableClearsEnablesOnly := by
  intro s port mask flags cb h6 h7 h2 hg hs hm
  rw [exec_gset_of_mask_ne_zero cb (flagsLegal_iff.mpr ⟨h6, h7⟩) hg hs hm, if_pos h2, State.ieWrite, State.ieRead]
  refine ⟨fun idle => ?_, fun i cb' wait => ?_⟩
  · rw [State.serving_of_ne_waitGpio idle]; rfl
  · rw [State.serving_of_waitGpio wait]; rfl

/-! The configuration of GSET (41_gpio.md R175): the port it names, and every other port. -/

section
variable (s : State) (m : Byte) (fl : GpioFlags) (cb : Byte)

theorem State.port_gsetConfigure {p : Nat} (hs : s.supported p = true) :
    (s.gsetConfigure p m fl cb).port p = (s.port p).gset (s.serving p) m fl cb s.spuriousBits := by
  have hs' : (s.noteMask m).supported p = true := hs
  rw [State.gsetConfigure, State.port_countDraw, State.port_modPort p _ hs', if_pos rfl]
  rfl

theorem State.port_gsetConfigure_ne {p k : Nat} (hk : k ≠ p) : (s.gsetConfigure p m fl cb).port k = s.port k :=
  State.port_modPort_ne (s := s.noteMask m) _ hk

@[simp] theorem State.length_gsetConfigure (p : Nat) : (s.gsetConfigure p m fl cb).ports.length = s.ports.length :=
  State.length_modPort (s := s.noteMask m) p _

/-- GSET writes the ports, FLAG_MULTIBIT and the count of draws. -/
theorem State.gsetConfigure_frame (p : Nat) :
    s.gsetConfigure p m fl cb = { s with
      ports := (s.gsetConfigure p m fl cb).ports, flagMultibit := (s.gsetConfigure p m fl cb).flagMultibit
      draws := drawsAfter s } := rfl

end

/-- The pin table after a registration (41_gpio.md R175). -/
theorem Port.getElem_register_pins (q : Port) (i k : Fin 8) (cb : Byte) (deb : Bool) :
    (q.register i cb deb).pins[k] = if k = i then { q.pins[k] with cb := cb, deb := deb } else q.pins[k] := by
  by_cases h : k = i
  · subst h; simp [Port.register]
  · have h' : i.val ≠ k.val := fun e => h (Fin.ext e.symm)
    simp [Port.register, h, h']

theorem getLsbD_level_eq_pinLevel (q : Port) (i : Fin 8) : q.level.getLsbD i.val = pinLevel q i.val := getLsbD_level q i

theorem getLsbD_edges_eq_edgeSeen (l0 l1 ies : Byte) (i : Fin 8) :
    (edges l0 l1 ies).getLsbD i.val = edgeSeen (l0.getLsbD i.val) (l1.getLsbD i.val) (ies.getLsbD i.val) :=
  getLsbD_edges l0 l1 ies i

/-- The flags after GSET, pin by pin (41_gpio.md R175): those of the change of levels, the spurious ones, but not the
registered pin's. -/
theorem Port.getLsbD_gset_ifg (q : Port) (sv : Bool) (m : Byte) (fl : GpioFlags) (cb noise : Byte) (i : Fin 8) :
    let r := q.gset sv m fl cb noise
    r.ifg.getLsbD i.val = ((q.ifg.getLsbD i.val ||
      edgeSeen (pinLevel q i.val) (pinLevel r i.val) (r.ies.getLsbD i.val) || noise.getLsbD i.val) &&
        decide (i ≠ msb m)) := by
  intro r
  have level : pinLevel r i.val = pinLevel (Port.configure m fl q) i.val := by cases sv <;> rfl
  have clear : (~~~(pinMask (msb m))).getLsbD i.val = decide (i ≠ msb m) := by
    rw [BitVec.getLsbD_not, getLsbD_pinMask]
    simp
  rw [Port.gset_ifg, BitVec.getLsbD_and, clear, BitVec.getLsbD_or, BitVec.getLsbD_or, getLsbD_edges_eq_edgeSeen,
    getLsbD_level_eq_pinLevel, getLsbD_level_eq_pinLevel, level, Port.gset_ies]

/-- Settles O17: past the checks GSET is `State.gsetConfigure`, whose port is read field by field and pin by pin. -/
theorem gsetConfiguresPins : Obligations.GsetConfiguresPins := by
  intro s port mask flags cb h6 h7 h2 hg hs hm
  have hport := s.port_gsetConfigure mask (decodeFlags flags) cb hs
  have highest (i : Fin 8) : Highest mask i ↔ i = msb mask := (msb_eq_iff hm).symm.trans eq_comm
  refine ⟨(s.gsetConfigure port.toNat mask (decodeFlags flags) cb).respond .ok 0, ?_, rfl, by simp,
    fun k hk => s.port_gsetConfigure_ne mask _ cb hk, ?_, ?_⟩
  · rw [exec_gset_of_mask_ne_zero cb (flagsLegal_iff.mpr ⟨h6, h7⟩) hg hs hm, h2]; rfl
  · rw [← popcount_gt_one]
    simp
  · intro q r
    have hr : r = q.gset (s.serving port.toNat) mask (decodeFlags flags) cb s.spuriousBits := hport
    clear_value r
    subst hr
    refine ⟨?_, by simp, ?_, ?_, fun idle => ?_, fun i cb' wait => ?_, by simp, by simp, by simp, by simp,
      fun i => ⟨fun hi => ?_, fun hi => ?_⟩⟩
    · cases h3 : flags.getLsbD 3 <;> cases h4 : flags.getLsbD 4 <;>
        simp only [Port.gset_out, Port.configure, decodeFlags, h3, h4] <;> rfl
    · cases h3 : flags.getLsbD 3 <;> cases h4 : flags.getLsbD 4 <;>
        simp only [Port.gset_ren, Port.configure, decodeFlags, h3, h4] <;> rfl
    · cases h1 : flags.getLsbD 1 <;> simp only [Port.gset_ies, Port.configure, decodeFlags, h1] <;> rfl
    · simp [State.serving_of_ne_waitGpio idle]
    · simp [State.serving_of_waitGpio wait]
    · have hi := (highest i).mp hi
      rw [Port.gset_pins, Port.getElem_register_pins, if_pos hi, Port.getLsbD_gset_ifg]
      exact ⟨rfl, by simp [hi]⟩
    · have hi : i ≠ msb mask := mt (highest i).mpr hi
      rw [Port.gset_pins, Port.getElem_register_pins, if_neg hi, Port.getLsbD_gset_ifg]
      exact ⟨rfl, by rw [decide_eq_true hi, Bool.and_true]; rfl⟩

/-! ### PRD -/

theorem exec_prd_of_unsupported {s : State} {port : Nibble} (h : s.supported port.toNat = false) (reg : PortReg) :
    exec (.prd port reg) s = .next { s with response := error .invalidPort } := if_pos h

theorem exec_prd_of_supported {s : State} {port : Nibble} (h : s.supported port.toNat = true) (reg : PortReg) :
    exec (.prd port reg) s = (s.readPortReg port.toNat reg).2.done (s.readPortReg port.toNat reg).1 :=
  if_neg (by simp [h])

/-- A register that is read without an effect answers its value, zero-extended. -/
theorem exec_prd_of_read {s : State} {port : Nibble} {reg : PortReg} {v : Byte} (h : s.supported port.toNat = true)
    (read : s.readPortReg port.toNat reg = (v.setWidth 64, s)) :
    exec (.prd port reg) s = .next { s with response := ok (BitVec.ofNat 64 v.toNat) } := by
  rw [exec_prd_of_supported h, read, State.done_setWidth]

/-- Settles O19: each code reads one register of the port, and IE is read where IERead says. -/
theorem prdReadsRegisters : Obligations.PrdReadsRegisters := by
  refine fun s port => ⟨exec_prd_of_unsupported, fun hs => ?_⟩
  refine ⟨⟨(s.port port.toNat).level, exec_prd_of_read hs rfl, getLsbD_level_eq_pinLevel _⟩, exec_prd_of_read hs rfl,
    exec_prd_of_read hs rfl, exec_prd_of_read hs rfl, exec_prd_of_read hs rfl, exec_prd_of_read hs rfl,
    fun idle => exec_prd_of_read hs ?_, fun i cb wait => exec_prd_of_read hs ?_⟩
  · rw [State.readPortReg, State.ieRead, State.serving_of_ne_waitGpio idle, Port.readIe_false]
  · rw [State.readPortReg, State.ieRead, State.serving_of_waitGpio wait, Port.readIe_true]

/-- Settles O20: the vector is the lowest flagged pin's, whose flag is cleared; with no flag it is 0. -/
theorem prdVectorReportsLowestFlag : Obligations.PrdVectorReportsLowestFlag := by
  refine fun s port hs => ⟨fun none => ?_, fun i lowest =>
    ⟨((s.port port.toNat).clearFlag i).ifg, ?_, getLsbD_clearFlag (s.port port.toNat) i⟩⟩
  · have hl := lowestPin_eq_none.mpr none
    simp only [exec_prd_of_supported hs, State.readPortReg, State.portVectorRead, vectorValue, hl]
    rfl
  · have hl := lowestPin_eq_some.mpr lowest
    simp only [exec_prd_of_supported hs, State.readPortReg, State.portVectorRead, vectorValue, hl]
    rfl

/-! ### PWR -/

theorem exec_pwr_of_unsupported {s : State} {port : Nibble} {reg : PortReg} (v : Byte) (hw : reg.writable = true)
    (h : s.supported port.toNat = false) :
    exec (.pwr port reg v) s = .next { s with response := error .invalidPort } :=
  (if_neg (by simp [hw])).trans (if_pos h)

theorem exec_pwr_of_supported {s : State} {port : Nibble} {reg : PortReg} (v : Byte) (hw : reg.writable = true)
    (h : s.supported port.toNat = true) : exec (.pwr port reg v) s = (s.writePortReg port.toNat v reg).done 0 :=
  (if_neg (by simp [hw])).trans (if_neg (by simp [h]))

theorem PortReg.writable_of_ne {reg : PortReg} (hin : reg ≠ .inp) (hiv : reg ≠ .iv) : reg.writable = true := by
  cases reg with
  | inp => exact absurd rfl hin
  | iv => exact absurd rfl hiv
  | _ => rfl

/-- Settles O21: each plain code writes one register of the port, and IE is written where IEWrite says. -/
theorem pwrWritesPlainRegisters : Obligations.PwrWritesPlainRegisters := by
  refine fun s port v => ⟨fun hs reg hin hiv => exec_pwr_of_unsupported v (PortReg.writable_of_ne hin hiv) hs,
    fun hs => ⟨exec_pwr_of_supported v rfl hs, exec_pwr_of_supported v rfl hs, fun idle => ?_, fun i cb wait => ?_⟩⟩
  · rw [exec_pwr_of_supported v rfl hs, State.writePortReg, State.ieWrite, State.serving_of_ne_waitGpio idle]; rfl
  · rw [exec_pwr_of_supported v rfl hs, State.writePortReg, State.ieWrite, State.serving_of_waitGpio wait]; rfl

/-- The flags after a write that changes levels (41_gpio.md R170, R171): those set, those of the edges, the spurious. -/
theorem getLsbD_edges_orFlags (q q' : Port) (noise : Byte) (i : Fin 8) :
    (q.ifg ||| edges q.level q'.level q.ies ||| noise).getLsbD i.val = (q.ifg.getLsbD i.val ||
      edgeSeen (pinLevel q i.val) (pinLevel q' i.val) (q.ies.getLsbD i.val) || noise.getLsbD i.val) := by
  rw [BitVec.getLsbD_or, BitVec.getLsbD_or, getLsbD_edges_eq_edgeSeen, getLsbD_level_eq_pinLevel,
    getLsbD_level_eq_pinLevel]

theorem edgeSeen_self (level falling : Bool) : edgeSeen level level falling = false := by
  cases level <;> cases falling <;> rfl

/-- Settles O22: each write is one change of the port with its flags; REN moves no level, so it makes no edge. -/
theorem pwrWritesSetFlags : Obligations.PwrWritesSetFlags := by
  intro s port v hs q writes
  refine ⟨⟨_, ?_, getLsbD_edges_orFlags q (q.putOut v) (spuriousBits s)⟩,
    ⟨_, ?_, getLsbD_edges_orFlags q (q.putDir v) (spuriousBits s)⟩, ⟨q.ifg ||| spuriousBits s, ?_, fun i => ?_⟩⟩
  · rw [exec_pwr_of_supported v rfl hs, State.writePortReg_eq]; rfl
  · rw [exec_pwr_of_supported v rfl hs, State.writePortReg_eq]; rfl
  · rw [exec_pwr_of_supported v rfl hs, State.writePortReg_eq]; rfl
  · have still : pinLevel { q with ren := v } i.val = pinLevel q i.val := rfl
    rw [still, edgeSeen_self, Bool.or_false, BitVec.getLsbD_or]

/-! ### NOP, INTCTL and DIAG -/

/-- Settles O23: both commands respond OK, and INTCTL writes GIE first. -/
theorem nopAndIntctlWriteGieAtMost : Obligations.NopAndIntctlWriteGieAtMost := fun _ => ⟨rfl, fun _ => rfl⟩

/-- A select that names a port checks it (42_control.md R213). -/
theorem exec_diag_of_unsupported {s : State} {port : Nibble} {sel : DiagSel} (h : s.supported port.toNat = false)
    (takes : sel = .bounce ∨ sel = .spur) :
    exec (.diag port sel) s = .next { s with response := error .invalidPort } := by
  obtain rfl | rfl := takes
  · exact if_pos h
  · exact if_pos h

theorem exec_diag_bounce {s : State} {port : Nibble} (h : s.supported port.toNat = true) :
    exec (.diag port .bounce) s =
      .next { s with response := ok (BitVec.ofNat 64 (s.port port.toNat).bounceCnt.toNat) } :=
  (if_neg (by simp [h])).trans (s.done_setWidth _)

theorem exec_diag_spur {s : State} {port : Nibble} (h : s.supported port.toNat = true) :
    exec (.diag port .spur) s =
      .next { s with response := ok (BitVec.ofNat 64 (s.port port.toNat).spurCnt.toNat) } :=
  (if_neg (by simp [h])).trans (s.done_setWidth _)

/-- Settles O25: every select answers one value of the state, zero-extended, and those that name a port check it. -/
theorem diagReadsDiagnostics : Obligations.DiagReadsDiagnostics :=
  fun s _ => ⟨exec_diag_status s, exec_diag_cbinfo s, s.done_setWidth s.tspurCnt, s.done_setWidth s.round,
    fun hs => ⟨exec_diag_bounce hs, exec_diag_spur hs⟩, fun hs _ takes => exec_diag_of_unsupported hs takes⟩

/-! ### A callback that writes its own port's IE -/

/-- The port after the return from its callback (60_exceptions.md R250). -/
theorem State.port_dispatchFinish {s : State} {p : Nat} (h : s.supported p = true) :
    (s.dispatchFinish p).port p = (s.port p).finish := by
  rw [State.dispatchFinish, State.port_setEng, State.port_modPort p _ h, if_pos rfl]

/-- CBDONE of a callback of port `p` restores what SAVED_IE holds, clears the flags and ends the wait. -/
theorem exec_cbdone_restores {s : State} {p : Nat} {i : Fin 8} {cb : Byte} (hs : s.supported p = true)
    (wait : s.eng = .waitGpio p i cb) :
    ∃ u, exec .cbdone s = .next u ∧ (u.port p).ie = (s.port p).savedIe ∧ (u.port p).ifg = 0 ∧ u.eng = .idle := by
  have hport : ({ s.dispatchFinish p with response := ok 0 } : State).port p = (s.port p).finish :=
    State.port_dispatchFinish hs
  exact ⟨_, exec_cbdone_of_waitGpio wait, by rw [hport]; rfl, by rw [hport]; rfl, rfl⟩

/-- Settles O43: while its callback is outstanding, PWR and GSET write the port's SAVED_IE and not its IE, and CBDONE
restores SAVED_IE. -/
theorem callbackReconfigurationSurvives : Obligations.CallbackReconfigurationSurvives := by
  intro s port i cb v mask flags cb' wait hs hg hm h6 h7 h2
  have serving := State.serving_of_waitGpio wait
  constructor
  · have write := exec_pwr_of_supported v (reg := .ie) rfl hs
    have port_t : ((s.writePortReg port.toNat v .ie).respond .ok 0).port port.toNat =
        (s.port port.toNat).writeIe true v := by
      rw [State.writePortReg_eq, serving, State.port_respond, State.port_modPort _ _ hs, if_pos rfl]
    obtain ⟨u, done, ie, ifg, idle⟩ :=
      exec_cbdone_restores (s := (s.writePortReg port.toNat v .ie).respond .ok 0)
        (by simpa [State.writePortReg] using hs) wait
    exact ⟨_, u, write, done, by rw [port_t]; rfl, by rw [ie, port_t]; rfl, ifg, idle⟩
  · have write := exec_gset_of_mask_ne_zero cb' (flagsLegal_iff.mpr ⟨h6, h7⟩) hg hs hm
    rw [h2, if_neg Bool.false_ne_true] at write
    have port_t : ((s.gsetConfigure port.toNat mask (decodeFlags flags) cb').respond .ok 0).port port.toNat =
        (s.port port.toNat).gset true mask (decodeFlags flags) cb' s.spuriousBits := by
      rw [State.port_respond, State.port_gsetConfigure _ _ _ _ hs, serving]
    obtain ⟨u, done, ie, ifg, idle⟩ :=
      exec_cbdone_restores (s := (s.gsetConfigure port.toNat mask (decodeFlags flags) cb').respond .ok 0)
        (by simpa using hs) wait
    exact ⟨_, u, write, done, by rw [port_t, Port.gset_ie]; rfl, by rw [ie, port_t, Port.gset_savedIe]; rfl, ifg, idle⟩

end Sys2Proof.Machine
end

section
/-! What holds of every command: how it can end (30_encoding.md R105, 60_exceptions.md R230, R231), and the frames of the
reading commands, the timer commands and the GPIO commands (20_memory.md R86, 40_timer.md, 41_gpio.md). -/

namespace Sys2Proof.Machine
open Sys2Proof.Claims

/-! ### How a command ends -/

/-- The ways a command ends: OK with a value, an error that changes nothing, or UNINIT (60_exceptions.md R230, R231). -/
inductive Answers (s : State) : Host.Outcome State Fault Refusal → Prop
  | done (u : State) (v : Long) : Answers s (u.done v)
  | fail {st : Status} (h : st ≠ .notInitialised) : Answers s (s.fail st)
  | raise : Answers s s.raiseUninit

theorem Answers.ite {s : State} {c : Prop} [Decidable c] {a b : Host.Outcome State Fault Refusal} (ha : Answers s a)
    (hb : Answers s b) : Answers s (if c then a else b) := by
  split
  · exact ha
  · exact hb

/-- Every command ends in one of these ways. -/
theorem exec_answers (i : Instr) (s : State) : Answers s (exec i s) := by
  cases i with
  | nop => exact .done _ _
  | tinit => exact .done _ _
  | tnow => exact .done _ _
  | tnowx => exact .done _ _
  | ginit => exact .done _ _
  | intctl e => exact .done _ _
  | tset ch cb cmp r => exact .ite .raise (.ite (.fail nofun) (.done _ _))
  | tunset ch => exact .ite (.fail nofun) (.done _ _)
  | tquery ch => exact .ite (.fail nofun) (.done _ _)
  | gset port mask flags cb =>
    exact .ite (.fail nofun) (.ite .raise (.ite (.fail nofun) (.ite (.fail nofun) (.ite (.done _ _) (.done _ _)))))
  | gquery port pin =>
    refine .ite (.fail nofun) ?_
    cases pinOfField pin with
    | none => exact .fail nofun
    | some i => exact .done _ _
  | prd port reg => exact .ite (.fail nofun) (.done _ _)
  | pwr port reg v => exact .ite (.fail nofun) (.ite (.fail nofun) (.done _ _))
  | cbdone =>
    rw [exec, execCbdone]
    cases s.eng with
    | idle => exact .fail nofun
    | waitTimer c cb => exact .done _ _
    | waitGpio p i cb => exact .done _ _
  | diag port sel =>
    refine .ite (.fail nofun) ?_
    cases sel with
    | status => exact .done _ _
    | cbinfo => exact .done _ _
    | tspur => exact .done _ _
    | round => exact .done _ _
    | bounce => exact .ite (.fail nofun) (.done _ _)
    | spur => exact .ite (.fail nofun) (.done _ _)

/-- Every command has a next state (00_scope.md R13). -/
theorem exists_exec_eq_next (i : Instr) (s : State) : ∃ t, exec i s = .next t := by
  have ends := exec_answers i s
  generalize exec i s = o at ends
  cases ends with
  | done u v => exact ⟨_, rfl⟩
  | fail _ => exact ⟨_, rfl⟩
  | raise => exact ⟨_, rfl⟩

/-- Settles O28: of the ways to end, OK is not an error, and the other two change at most FAULT_UNINIT. -/
theorem errorsChangeNothing : Obligations.ErrorsChangeNothing := by
  intro i s t h notOk
  have ends := exec_answers i s
  generalize exec i s = o at h ends
  cases ends with
  | done u v =>
    obtain rfl := State.done_eq_next.mp h
    exact absurd rfl notOk
  | fail hst =>
    obtain rfl := State.fail_eq_next.mp h
    exact ⟨rfl, fun _ => rfl, fun e => absurd e hst⟩
  | raise =>
    obtain rfl := State.raiseUninit_eq_next.mp h
    exact ⟨rfl, fun e => absurd rfl e, fun _ => rfl⟩

/-! ### Frames -/

/-- Settles O29: a reading command has no effect and needs no initialisation, so it only responds. -/
theorem readsChangeNothing : Obligations.ReadsChangeNothing := by
  intro i s t reads h
  obtain ⟨st, v, rfl⟩ | ⟨needs, rfl⟩ | ⟨u, v, effect, rfl⟩ := exec_cases h
  · rfl
  · cases i with
    | tset => exact absurd reads id
    | gset => exact absurd reads id
    | _ => exact absurd needs id
  · cases effect
    case vector => exact absurd rfl reads
    all_goals exact absurd reads id

/-- Settles O30: the effects of the timer commands are TINIT's, the arming and the disarming of a slot. -/
theorem timerCommandsLeaveGpio : Obligations.TimerCommandsLeaveGpio := by
  intro i s t timer h
  obtain ⟨st, v, rfl⟩ | ⟨_, rfl⟩ | ⟨u, v, effect, rfl⟩ := exec_cases h
  · exact ⟨rfl, rfl⟩
  · exact ⟨rfl, rfl⟩
  · cases effect
    case tinit => exact ⟨rfl, List.length_map _⟩
    case tset => exact ⟨rfl, List.length_set⟩
    case tunset => exact ⟨rfl, List.length_set⟩
    all_goals exact absurd timer id

/-- What no command writes of a port: EXT, PEND and the two counters (41_gpio.md, the Written lists). -/
def Port.outer (q : Port) : Byte × Bool × Half × Half := (q.ext, q.pend, q.bounceCnt, q.spurCnt)

/-- A port after GINIT (41_gpio.md R174). -/
theorem State.port_ginit (s : State) (p : Nat) :
    ({ s with ports := s.ports.map Port.clearPins, ginitDone := true } : State).port p =
      if s.supported p then (s.port p).clearPins else s.port p :=
  State.port_map (t := { s with ports := s.ports.map Port.clearPins, ginitDone := true }) rfl rfl p

/-- No command's effect writes EXT, PEND or a counter of any port. -/
theorem Effect.port_outer {s t : State} {i : Instr} (h : Effect s i t) (p : Nat) :
    (t.port p).outer = (s.port p).outer := by
  have kept (c : Nat) (f : Port → Port) (hf : ∀ q, (f q).outer = q.outer) :
      ((s.modPort c f).port p).outer = (s.port p).outer := State.port_modPort_keep Port.outer hf c p
  cases h
  case ginit =>
    rw [s.port_ginit]
    split
    · rfl
    · rfl
  case gsetDisable => exact kept _ _ fun q => by simp [Port.outer]
  case gset port mask flags cb _ _ =>
    exact kept port.toNat (Port.gset _ mask (decodeFlags flags) cb _) fun q => by simp [Port.outer]
  case vector => exact kept _ _ fun q => rfl
  case gpioReturn => exact kept _ _ fun q => rfl
  case pwr port reg v _ _ =>
    obtain ⟨f, h, hf⟩ := s.writePortReg_modPort port.toNat v reg
    have same : ∀ q, (f q).outer = q.outer := fun q => by
      obtain ⟨ext, pend, _, bounce, spur, _⟩ := hf q
      rw [Port.outer, ext, pend, bounce, spur, Port.outer]
    obtain h | h := h <;> rw [h] <;> exact kept _ f same
  all_goals rfl

/-- A command that names a port leaves every other port whole. -/
theorem Effect.port_of_namesPort_ne {s t : State} {i : Instr} {port : Nibble} (h : Effect s i t)
    (names : NamesPort i port) {p : Nat} (hp : p ≠ port.toNat) : t.port p = s.port p := by
  cases h
  case gsetDisable => obtain rfl := names; exact State.port_modPort_ne _ hp
  case gset => obtain rfl := names; exact s.port_gsetConfigure_ne _ _ _ hp
  case vector => obtain rfl := names; exact State.port_modPort_ne _ hp
  case pwr _ reg v _ _ =>
    obtain rfl := names
    obtain ⟨f, h, _⟩ := s.writePortReg_modPort _ v reg
    obtain h | h := h
    · rw [h]; exact State.port_modPort_ne f hp
    · rw [h, State.port_countDraw]; exact State.port_modPort_ne f hp
  all_goals exact absurd names id

/-- Settles O31: the effects of the GPIO commands write the ports, GINIT_DONE, FLAG_MULTIBIT and the draws, and of a port
nothing of `Port.outer`. -/
theorem gpioCommandsLeaveTimer : Obligations.GpioCommandsLeaveTimer := by
  intro i s t gpio h
  obtain ⟨st, v, rfl⟩ | ⟨_, rfl⟩ | ⟨u, v, effect, rfl⟩ := exec_cases h
  · exact ⟨rfl, rfl, fun p => ⟨rfl, rfl, rfl, rfl, fun _ _ _ => rfl⟩⟩
  · exact ⟨rfl, rfl, fun p => ⟨rfl, rfl, rfl, rfl, fun _ _ _ => rfl⟩⟩
  · obtain ⟨-, -, -, -, -, -, -, -, -, -, -, length⟩ := effect.frame
    refine ⟨?_, length, fun p => ?_⟩
    · cases effect
      case ginit => rfl
      case gsetDisable => rfl
      case gset => rfl
      case vector => rfl
      case pwr port reg v _ _ =>
        obtain ⟨f, h, _⟩ := s.writePortReg_modPort port.toNat v reg
        obtain h | h := h <;> rw [h] <;> rfl
      all_goals exact absurd gpio id
    · obtain ⟨ext, pend, bounce, spur⟩ : (u.port p).ext = (s.port p).ext ∧ (u.port p).pend = (s.port p).pend ∧
          (u.port p).bounceCnt = (s.port p).bounceCnt ∧ (u.port p).spurCnt = (s.port p).spurCnt := by
        simpa [Port.outer] using effect.port_outer p
      exact ⟨ext, pend, bounce, spur, fun port names hp => effect.port_of_namesPort_ne names hp⟩

end Sys2Proof.Machine
end

section
/-! One step (00_scope.md R11): the turn that comes next decides it, each turn gives a next state, and what a step can do
before the latch update of 60_exceptions.md R234 is one of five acts. -/

namespace Sys2Proof.Machine
open Sys2Proof.Claims

/-! ### The next turn -/

section
variable {s : State} {rest : List Turn} {turn : Turn}

theorem State.nextTurn_of_agenda (h : s.agenda = turn :: rest) : s.nextTurn = turn := by rw [State.nextTurn, h]

theorem State.popTurn_of_agenda (h : s.agenda = turn :: rest) : s.popTurn = taken s rest := by
  rw [State.popTurn, h]; rfl

theorem step_of_host {cmd data : Word} (h : s.nextTurn = .host cmd data) :
    step s = afterCommand cmd data (runCommand cmd data s.popTurn) := by rw [step, h]

theorem step_of_tick (h : s.nextTurn = .tick) : step s = .next s.popTurn.tickTurn := by rw [step, h]

theorem step_of_pin {p : Nat} {v : Byte} (h : s.nextTurn = .pin p v) : step s = .next (s.popTurn.pinTurn p v) := by
  rw [step, h]

theorem step_of_engine {svc : Service} (h : s.nextTurn = .engine svc) :
    step s = .next (s.popTurn.engineTurn svc) := by rw [step, h]

end

theorem runCommand_of_ok {cmd data : Word} {i : Instr} (h : decode cmd data = .ok i) (s : State) :
    runCommand cmd data s = exec i s := by rw [runCommand, h]

theorem runCommand_of_error {cmd data : Word} {e : DecodeError} (h : decode cmd data = .error e) (s : State) :
    runCommand cmd data s = .next s.illegal := by rw [runCommand, h]

theorem exists_runCommand_eq_next (cmd data : Word) (s : State) : ∃ t, runCommand cmd data s = .next t := by
  cases h : decode cmd data with
  | error e => exact ⟨_, runCommand_of_error h s⟩
  | ok i => rw [runCommand_of_ok h]; exact exists_exec_eq_next i s

/-- Settles O48: every command has a next state, and the turns of the other agents are functions of the state. -/
theorem everyStepGoesOn : Obligations.EveryStepGoesOn := by
  intro s
  cases turn : s.nextTurn with
  | host cmd data =>
    obtain ⟨t, ht⟩ := exists_runCommand_eq_next cmd data s.popTurn
    exact ⟨t.commandEnd cmd data, by rw [step_of_host turn, ht]; rfl⟩
  | tick => exact ⟨_, step_of_tick turn⟩
  | pin p v => exact ⟨_, step_of_pin turn⟩
  | engine svc => exact ⟨_, step_of_engine turn⟩

/-! ### HOST -/

/-- A word of 32 bits is all CMD and no DATA (log 9). -/
theorem State.withFetchWord_32 (s : State) {w : Nat} (h : w < 2 ^ 32) :
    s.withFetchWord 32 w = { s with agenda := .host (BitVec.ofNat 32 w) 0 :: s.agenda } := by
  rw [State.withFetchWord, tableCmd, tableData, Nat.mod_eq_of_lt h, Nat.div_eq_of_lt h]; rfl

/-- Settles O32: HOST's turn runs the command its words name, or answers IllegalCommand. -/
theorem stepRunsDecodedCommand : Obligations.StepRunsDecodedCommand := by
  refine ⟨fun s cmd data rest h => ⟨fun i t hd ht => ?_, fun e he => ?_⟩, fun s w hw => s.withFetchWord_32 hw⟩
  · rw [step_of_host (State.nextTurn_of_agenda h), State.popTurn_of_agenda h, runCommand_of_ok hd, ht]; rfl
  · rw [step_of_host (State.nextTurn_of_agenda h), State.popTurn_of_agenda h, runCommand_of_error he]; rfl

/-! ### TICK -/

theorem State.tick_of_stopped {s : State} (h : s.run = false) : s.tick = s := by simp [State.tick, h]

theorem State.tick_of_run {s : State} (h : s.run = true) :
    s.tick = { s with
      cnt := s.cnt + 1
      faultOvfMissed := s.faultOvfMissed || (s.cnt + 1 == 0 && s.ovf)
      ovf := s.ovf || s.cnt + 1 == 0
      channels := s.channels.map (Channel.compare (s.cnt + 1)) } := if_pos h

/-- The counter wraps from its last value (60_exceptions.md R233). -/
theorem add_one_beq_zero (cnt : Half) : (cnt + 1 == 0) = decide (cnt.toNat = 2 ^ 16 - 1) := by
  rw [beq_eq_decide, decide_eq_decide]
  constructor
  · intro h; bv_omega
  · intro h; bv_omega

theorem add_one_eq_ofNat (cnt : Half) : cnt + 1 = BitVec.ofNat 16 (cnt.toNat + 1) := by
  rw [BitVec.ofNat_add, BitVec.ofNat_toNat, BitVec.setWidth_eq]; rfl

/-- Settles O33: with RUN the counter, OVF, the missed wrap and every channel's compare; without it the event alone. -/
theorem tickAdvancesCounter : Obligations.TickAdvancesCounter := by
  intro s rest h
  rw [step_of_tick (State.nextTurn_of_agenda h), State.popTurn_of_agenda h, State.tickTurn]
  refine ⟨fun stopped => ?_, fun running => ⟨s.channels.map (Channel.compare (s.cnt + 1)), ?_, List.length_map _, ?_⟩⟩
  · rw [State.tick_of_stopped (s := taken s rest) stopped]; rfl
  · rw [State.tick_of_run (s := taken s rest) running, ← add_one_eq_ofNat, ← add_one_beq_zero,
      Bool.and_comm s.ovf]
    rfl
  · intro c ch ch' hch hch'
    rw [List.getElem?_map, hch] at hch'
    obtain rfl := Option.some.inj hch'
    refine ⟨rfl, ?_⟩
    rw [Channel.compare_ccifg, Bool.or_eq_true, beq_iff_eq, ← BitVec.toNat_inj, BitVec.toNat_add, eq_comm (b := ch.ccr.toNat)]
    rfl

/-! ### ENV and the ENGINE -/

section
variable {s : State} {p : Nat} {svc : Service}

theorem State.pinTurn_of_supported (v : Byte) (h : s.supported p = true) :
    s.pinTurn p v = ((s.pin p v).log (.pin p v)).updateLatches := if_pos h

theorem State.pinTurn_of_unsupported (v : Byte) (h : s.supported p = false) : s.pinTurn p v = s := if_neg (by simp [h])

theorem State.engineTurn_of_enabled (h : s.enabled svc = true) : s.engineTurn svc = (s.serve svc).updateLatches :=
  if_pos h

theorem State.engineTurn_of_not_enabled (h : s.enabled svc = false) : s.engineTurn svc = s := if_neg (by simp [h])

end

/-- Settles O34: the external levels move, and the edge detector sets the flags. -/
theorem pinStepDetectsEdges : Obligations.PinStepDetectsEdges := by
  intro s p v rest h hs q
  refine ⟨((Port.change (Port.putExt v)) q).ifg, ?_, fun i => ?_⟩
  · rw [step_of_pin (State.nextTurn_of_agenda h), State.popTurn_of_agenda h]
    exact congrArg _ (State.pinTurn_of_supported v hs)
  · rw [← getLsbD_level_eq_pinLevel, ← getLsbD_level_eq_pinLevel, ← getLsbD_edges_eq_edgeSeen, ← BitVec.getLsbD_or]
    rfl

/-- Settles O37: an ENGINE turn asks whether the service is enabled, an ENV turn whether the port is supported. -/
theorem engineTurnServesOrPasses : Obligations.EngineTurnServesOrPasses := by
  refine fun s rest => ⟨fun svc h => ?_, fun p v h hs => ?_⟩
  · rw [step_of_engine (State.nextTurn_of_agenda h), State.popTurn_of_agenda h]
    exact ⟨fun on => congrArg _ (State.engineTurn_of_enabled on), fun off => congrArg _ (State.engineTurn_of_not_enabled off)⟩
  · rw [step_of_pin (State.nextTurn_of_agenda h), State.popTurn_of_agenda h]
    exact congrArg _ (State.pinTurn_of_unsupported v hs)

/-! ### What a step does before the latch update -/

/-- The turn names no enabled step, and passes (log 5). -/
def Passes (s : State) : Prop :=
  (∃ svc, s.nextTurn = .engine svc ∧ s.enabled svc = false) ∨ ∃ p v, s.nextTurn = .pin p v ∧ s.supported p = false

/-- What a step that does not pass has done before the latch update. -/
inductive Act (s : State) : State → Prop
  /-- a command that only answers, with at most the fault UNINIT -/
  | answer {cmd data : Word} (turn : s.nextTurn = .host cmd data) {fault : Bool} (sticky : s.faultUninit = true → fault = true)
      (r : Response) : Act s ({ s.popTurn with faultUninit := fault, response := r }.log (.cmd cmd data r))
  /-- a command with an effect -/
  | command {cmd data : Word} {i : Instr} {u : State} (turn : s.nextTurn = .host cmd data)
      (decoded : decode cmd data = .ok i) (effect : Effect s.popTurn i u) (v : Long) :
      Act s ((u.respond .ok v).log (.cmd cmd data (ok v)))
  /-- TICK -/
  | tick (turn : s.nextTurn = .tick) : Act s (s.popTurn.tick.log .tick)
  /-- ENV on a supported port -/
  | pin {p : Nat} {v : Byte} (turn : s.nextTurn = .pin p v) (supported : s.supported p = true) :
      Act s ((s.popTurn.pin p v).log (.pin p v))
  /-- the ENGINE on an enabled service -/
  | serve {svc : Service} (turn : s.nextTurn = .engine svc) (enabled : s.enabled svc = true) :
      Act s (s.popTurn.serve svc)

/-- A step passes, or it is an act and the latch update. -/
theorem step_act {s t : State} (h : step s = .next t) :
    (Passes s ∧ t = s.popTurn) ∨ ∃ u, Act s u ∧ t = u.updateLatches := by
  obtain ⟨cmd, data, i, u, turn, hd, hx, rfl⟩ | ⟨cmd, data, e, turn, _, rfl⟩ | ⟨turn, rfl⟩ | ⟨p, v, turn, rfl⟩ |
    ⟨svc, turn, rfl⟩ := step_cases h
  · refine .inr ⟨_, ?_, rfl⟩
    obtain ⟨st, v, rfl⟩ | ⟨_, rfl⟩ | ⟨t, v, effect, rfl⟩ := exec_cases hx
    · exact .answer turn (fault := s.faultUninit) id { status := st, value := v }
    · exact .answer turn (fun _ => rfl) (error .notInitialised)
    · exact .command turn hd effect v
  · exact .inr ⟨_, .answer turn (fault := s.faultUninit) id (error .illegalCommand), rfl⟩
  · exact .inr ⟨_, .tick turn, rfl⟩
  · cases hs : s.supported p with
    | true => exact .inr ⟨_, .pin turn hs, State.pinTurn_of_supported v hs⟩
    | false => exact .inl ⟨.inr ⟨p, v, turn, hs⟩, State.pinTurn_of_unsupported v hs⟩
  · cases on : s.enabled svc with
    | true => exact .inr ⟨_, .serve turn on, State.engineTurn_of_enabled on⟩
    | false => exact .inl ⟨.inl ⟨svc, turn, on⟩, State.engineTurn_of_not_enabled on⟩

end Sys2Proof.Machine
end

section
/-! The services (60_exceptions.md R238 to R250): when the expiry check fires a slot, which slot a timer service fires, and
which pin's event a port dispatch accepts. -/

namespace Sys2Proof.Machine
open Sys2Proof.Claims

/-! ### The expiry check -/

/-- The wrapped difference of the rounds, read as two's complement, is 0 or negative (60_exceptions.md R240). -/
theorem roundDelta_le_zero_iff {targetRound round : Word} : roundDelta targetRound round ≤ 0 ↔ Due targetRound round := by
  have wrap : (targetRound - round).toNat = (targetRound.toNat + 2 ^ 32 - round.toNat) % 2 ^ 32 := by
    rw [BitVec.toNat_sub]
    congr 1
    omega
  rw [roundDelta, BitVec.toInt_eq_toNat_cond, wrap, Due]
  generalize targetRound.toNat + 2 ^ 32 - round.toNat = d
  split <;> omega

theorem due_self (round : Word) : Due round round :=
  roundDelta_le_zero_iff.mp (by simp [roundDelta])

/-- A due slot fires: it is disarmed, and its callback, where it has one, is entered (60_exceptions.md R240, R243). -/
def State.fire (s : State) (c : Nat) : State := (s.disarm c).timerInvoke c (s.chan c).callback

section
variable {s : State} {c : Nat}

theorem State.expiryCheck_of_unarmed (h : (s.chan c).armed = false) : s.expiryCheck c = s.countTimerSpurious := if_pos h

theorem State.expiryCheck_of_not_due (armed : (s.chan c).armed = true) (h : ¬Due (s.chan c).targetRound s.round) :
    s.expiryCheck c = s.modChan c Channel.clearFlag :=
  (if_neg (by simp [armed])).trans (if_neg (mt roundDelta_le_zero_iff.mp h))

theorem State.expiryCheck_of_due (armed : (s.chan c).armed = true) (h : Due (s.chan c).targetRound s.round) :
    s.expiryCheck c = s.fire c :=
  (if_neg (by simp [armed])).trans (if_pos (roundDelta_le_zero_iff.mpr h))

theorem State.fire_of_no_callback (h : (s.chan c).callback = 0) : s.fire c = s.disarm c := if_pos h

theorem State.fire_of_callback (h : (s.chan c).callback ≠ 0) :
    s.fire c = (s.disarm c).enterCallback (s.chan c).callback (.timer c) (.waitTimer c (s.chan c).callback) := if_neg h

end

/-- Settles O39: unarmed, not yet due, or due without or with a callback. -/
theorem expiryCheckFiresDueSlots : Obligations.ExpiryCheckFiresDueSlots := by
  intro s c slot h
  obtain ⟨-, rfl⟩ := State.chan_of_getElem? h
  refine ⟨State.expiryCheck_of_unarmed, State.expiryCheck_of_not_due, fun armed due none => ?_, fun armed due some => ?_⟩
  · rw [State.expiryCheck_of_due armed due, State.fire_of_no_callback none]; rfl
  · rw [State.expiryCheck_of_due armed due, State.fire_of_callback some]; rfl

/-! ### The overflow service -/

/-- The overflow moves into the round (60_exceptions.md R238). -/
def State.nextRound (s : State) : State := { s with ovf := false, round := s.round + 1 }

/-- Slot 0 is polled for the new round (60_exceptions.md R238). -/
theorem State.slot0Due_nextRound_iff {s : State} :
    s.nextRound.slot0Due = true ↔
      (s.chan 0).armed = true ∧ (s.chan 0).targetRound = s.round + 1 ∧ (s.chan 0).ccr.toNat ≤ s.cnt.toNat := by
  change (((s.chan 0).armed && (s.chan 0).targetRound == s.round + 1 && decide ((s.chan 0).ccr ≤ s.cnt)) = true) ↔ _
  rw [Bool.and_eq_true, Bool.and_eq_true, beq_iff_eq, decide_eq_true_eq, BitVec.le_def, and_assoc]

/-- The polled slot is due: its round is the new one. -/
theorem State.overflowService_of_due {s : State} (h : s.nextRound.slot0Due = true) :
    s.overflowService = s.nextRound.fire 0 := by
  obtain ⟨armed, round, -⟩ := State.slot0Due_nextRound_iff.mp h
  have due : Due (s.nextRound.chan 0).targetRound s.nextRound.round := by
    rw [show (s.nextRound.chan 0).targetRound = s.nextRound.round from round]
    exact due_self _
  exact (if_pos h).trans (State.expiryCheck_of_due armed due)

theorem State.overflowService_of_not_due {s : State} (h : ¬s.nextRound.slot0Due = true) :
    s.overflowService = s.nextRound := if_neg h

/-- Settles O38: slot 0 fires exactly where the poll finds it due. -/
theorem overflowServicePollsSlotZero : Obligations.OverflowServicePollsSlotZero := by
  intro s slot s' fires
  have poll : s.nextRound.slot0Due = true ↔ fires := State.slot0Due_nextRound_iff
  refine ⟨fun h => State.overflowService_of_not_due (mt poll.mp h), fun h none => ?_, fun h some => ?_⟩
  · exact (State.overflowService_of_due (poll.mpr h)).trans (State.fire_of_no_callback none)
  · exact (State.overflowService_of_due (poll.mpr h)).trans (State.fire_of_callback some)

/-! ### Which slot a timer service fires -/

/-- `svc` fires slot `c` (60_exceptions.md R238, R240 to R242). -/
def State.Fires (s : State) : Service → Nat → Prop
  | .overflow, c => c = 0 ∧ (s.chan c).armed = true ∧ (s.chan c).targetRound = s.round + 1 ∧
      (s.chan c).ccr.toNat ≤ s.cnt.toNat
  | .cmp0, c => c = 0 ∧ (s.chan c).armed = true ∧ Matched (s.chan c) ∧ Due (s.chan c).targetRound s.round
  | .cmpv, c => 1 ≤ c ∧ (s.chan c).armed = true ∧ Matched (s.chan c) ∧ Due (s.chan c).targetRound s.round
  | .port _, _ => False

/-- From `s` to `t` slot `c` has fired: it is disarmed, and its callback, where it has one, is entered. -/
structure State.Fired (s t : State) (c : Nat) : Prop where
  channels : t.channels = s.channels.set c (s.chan c).disarm
  callback : ((s.chan c).callback = 0 ∧ t.eng = s.eng ∧ t.trace = s.trace) ∨
    ((s.chan c).callback ≠ 0 ∧ t.eng = .waitTimer c (s.chan c).callback ∧
      t.trace = .callback (s.chan c).callback (.timer c) :: s.trace)

/-- From `s` to `t` no slot has fired: at most one matched channel lost its flag. -/
structure State.Unfired (s t : State) : Prop where
  channels : t.channels = s.channels ∨
    ∃ c, c < s.n ∧ Matched (s.chan c) ∧ t.channels = s.channels.set c (s.chan c).clearFlag
  eng : t.eng = s.eng
  trace : t.trace = s.trace

/-- An armed channel is below N: a read elsewhere answers the reset channel (log 11). -/
theorem State.lt_n_of_armed {s : State} {c : Nat} (h : (s.chan c).armed = true) : c < s.n := by
  by_contra out
  rw [State.chan_out (Nat.le_of_not_lt out)] at h
  exact absurd h Bool.false_ne_true

theorem State.Fires.armed {s : State} {svc : Service} {c : Nat} (h : s.Fires svc c) : (s.chan c).armed = true := by
  cases svc with
  | overflow => exact h.2.1
  | cmp0 => exact h.2.1
  | cmpv => exact h.2.1
  | port p => exact h.elim

/-- Firing a slot after a clear of its flag: the clear leaves no trace. -/
theorem State.fired_fire {s u : State} {c : Nat}
    (chan : u.chan c = s.chan c ∨ u.chan c = (s.chan c).clearFlag)
    (channels : u.channels = s.channels ∨ u.channels = s.channels.set c (s.chan c).clearFlag) (eng : u.eng = s.eng)
    (trace : u.trace = s.trace) : s.Fired (u.fire c) c := by
  have disarm : (u.chan c).disarm = (s.chan c).disarm := by
    obtain h | h := chan <;> rw [h]; rfl
  have callback : (u.chan c).callback = (s.chan c).callback := by
    obtain h | h := chan <;> rw [h]; rfl
  have written : (u.disarm c).channels = s.channels.set c (s.chan c).disarm := by
    obtain h | h := channels <;> rw [State.disarm_channels, disarm, h]
    exact List.set_set _
  by_cases none : (u.chan c).callback = 0
  · rw [State.fire_of_no_callback none]
    exact ⟨written, .inl ⟨callback ▸ none, eng, trace⟩⟩
  · rw [State.fire_of_callback none]
    exact ⟨written, .inr ⟨callback ▸ none, by rw [callback]; rfl, by rw [callback, ← trace]; rfl⟩⟩

/-- The expiry check of a matched channel whose flag was just cleared. -/
theorem State.expiryCheck_clearFlag {s u : State} {c : Nat} (matched : Matched (s.chan c))
    (chan : u.chan c = (s.chan c).clearFlag) (channels : u.channels = s.channels.set c (s.chan c).clearFlag)
    (round : u.round = s.round) (eng : u.eng = s.eng) (trace : u.trace = s.trace) :
    ((s.chan c).armed = true ∧ Due (s.chan c).targetRound s.round ∧ s.Fired (u.expiryCheck c) c) ∨
      s.Unfired (u.expiryCheck c) := by
  have hc := State.lt_n_of_matched matched
  have armed_eq : (u.chan c).armed = (s.chan c).armed := by rw [chan]; rfl
  have due_iff : Due (u.chan c).targetRound u.round ↔ Due (s.chan c).targetRound s.round := by
    rw [chan, round, Channel.clearFlag_targetRound]
  by_cases armed : (s.chan c).armed = true
  · by_cases due : Due (s.chan c).targetRound s.round
    · rw [State.expiryCheck_of_due (armed_eq.trans armed) (due_iff.mpr due)]
      exact .inl ⟨armed, due, State.fired_fire (.inr chan) (.inr channels) eng trace⟩
    · rw [State.expiryCheck_of_not_due (armed_eq.trans armed) (mt due_iff.mp due)]
      refine .inr ⟨.inr ⟨c, hc, matched, ?_⟩, eng, trace⟩
      rw [State.modChan_channels, chan, channels]
      exact List.set_set _
  · rw [State.expiryCheck_of_unarmed (armed_eq.trans (Bool.not_eq_true _ ▸ armed))]
    exact .inr ⟨.inr ⟨c, hc, matched, channels⟩, eng, trace⟩

/-- What a timer service does to the slots: it fires one, or none. -/
theorem State.serve_timer_cases (s : State) {svc : Service} (timer : ∀ p, svc ≠ .port p) :
    (∃ c, s.Fires svc c ∧ s.Fired (s.serve svc) c) ∨ s.Unfired (s.serve svc) := by
  cases svc with
  | port p => exact absurd rfl (timer p)
  | overflow =>
    by_cases poll : s.nextRound.slot0Due = true
    · have fires := State.slot0Due_nextRound_iff.mp poll
      rw [State.serve, State.overflowService_of_due poll]
      exact .inl ⟨0, ⟨rfl, fires⟩, State.fired_fire (.inl rfl) (.inl rfl) rfl rfl⟩
    · rw [State.serve, State.overflowService_of_not_due poll]
      exact .inr ⟨.inl rfl, rfl, rfl⟩
  | cmp0 =>
    rw [State.serve]
    by_cases matched : Matched (s.chan 0)
    · rw [State.cmp0Service_of_matched matched]
      have chan := State.chan_modChan (s := { s with cpend0 := false }) 0 Channel.clearFlag (State.lt_n_of_matched matched)
      rw [if_pos rfl] at chan
      obtain ⟨armed, due, fired⟩ | unfired := State.expiryCheck_clearFlag matched chan rfl rfl rfl rfl
      · exact .inl ⟨0, ⟨rfl, armed, matched, due⟩, fired⟩
      · exact .inr unfired
    · rw [State.cmp0Service_of_unmatched matched]
      exact .inr ⟨.inl rfl, rfl, rfl⟩
  | cmpv =>
    rw [State.serve]
    obtain ⟨e, -⟩ | ⟨c, hc, -, request, -, e⟩ := s.cmpvService_cases
    · rw [e]
      exact .inr ⟨.inl rfl, rfl, rfl⟩
    · have matched := Channel.request_iff_matched.mp request
      rw [e]
      have chan := State.chan_modChan (s := { s with cpendv := false }) c Channel.clearFlag (State.lt_n_of_matched matched)
      rw [if_pos rfl] at chan
      obtain ⟨armed, due, fired⟩ | unfired := State.expiryCheck_clearFlag matched chan rfl rfl rfl rfl
      · exact .inl ⟨c, ⟨hc, armed, matched, due⟩, fired⟩
      · exact .inr unfired

/-! ### Which pin's event a dispatch accepts -/

/-- The dispatch of port `p` accepts an event of pin `i` (60_exceptions.md R244, R247, R248). -/
structure State.Accepts (s : State) (p : Nat) (i : Fin 8) : Prop where
  lowest : Lowest (s.port p).ifg i
  enabled : (s.port p).ie.getLsbD i.val = true
  settled : (s.port p).pins[i].deb = true → s.settings.d.toNat < elapsed s.cnt (s.port p).pins[i].last

/-- The port when an event of pin `i` is accepted at `cnt`: entered, the flag cleared, a debounced pin stamped. -/
def Port.accept (i : Fin 8) (cnt : Half) (q : Port) : Port :=
  if q.pins[i].deb then (q.dispatched i).stamp i cnt else q.dispatched i

theorem Port.accept_of_deb {i : Fin 8} {q : Port} (cnt : Half) (h : q.pins[i].deb = true) :
    q.accept i cnt = (q.dispatched i).stamp i cnt := if_pos h

theorem Port.accept_of_not_deb {i : Fin 8} {q : Port} (cnt : Half) (h : q.pins[i].deb = false) :
    q.accept i cnt = q.dispatched i := if_neg (h ▸ Bool.false_ne_true)

/-- The pin table after an accepted event (60_exceptions.md R248). -/
theorem Port.accept_pins (i : Fin 8) (cnt : Half) (q : Port) :
    (q.accept i cnt).pins = if q.pins[i].deb then q.pins.set i.val { q.pins[i] with last := cnt } else q.pins := by
  unfold Port.accept
  split
  · rfl
  · rfl

/-- An accepted event keeps everything of the port but PEND, IE, SAVED_IE, the flag and the stamp. -/
theorem Port.accept_eq (i : Fin 8) (cnt : Half) (q : Port) :
    q.accept i cnt = { q with
      pend := false, savedIe := q.ie, ie := 0, ifg := (q.clearFlag i).ifg, pins := (q.accept i cnt).pins } := by
  unfold Port.accept
  split
  · rfl
  · rfl

theorem lt_sub_iff_lt_elapsed {d cnt last : Half} : d < cnt - last ↔ d.toNat < elapsed cnt last := by
  rw [BitVec.lt_def, toNat_sub_eq_elapsed]

/-- An accepted event is swallowed where the pin has no callback, and else invokes it (60_exceptions.md R249, R250). -/
theorem State.portService_of_accepts {s : State} {p : Nat} {i : Fin 8} (hs : s.supported p = true) (h : s.Accepts p i) :
    s.portService p =
      if (s.port p).pins[i].cb = 0 then (s.modPort p (fun q => (q.accept i s.cnt).finish)).setEng .idle
      else (s.modPort p (Port.accept i s.cnt)).enterCallback (s.port p).pins[i].cb (.gpio p i)
        (.waitGpio p i (s.port p).pins[i].cb) := by
  have hl := lowestPin_eq_some.mpr h.lowest
  obtain ⟨none, -⟩ | ⟨j, hj, other⟩ := State.portService_cases hs
  · simp [hl] at none
  obtain rfl : i = j := Option.some.inj (hl.symm.trans hj)
  obtain ⟨off, -⟩ | ⟨-, deb, early, -⟩ | ⟨-, k, hk, effect⟩ := other
  · exact absurd (off.symm.trans h.enabled) Bool.false_ne_true
  · exact absurd (lt_sub_iff_lt_elapsed.mpr (h.settled deb)) early
  · have change : k (s.port p) = (s.port p).accept i s.cnt := by
      obtain ⟨deb, rfl⟩ | ⟨deb, -, rfl⟩ := hk
      · rw [Port.accept_of_not_deb s.cnt deb]
      · rw [Port.accept_of_deb s.cnt deb]
    obtain ⟨none, e⟩ | ⟨some, e⟩ := effect
    · rw [e, if_pos none, State.modPort, State.modPort, change]
    · rw [e, if_neg some, State.modPort, State.modPort, change]

/-- Settles O42: the port of an accepted event, swallowed or waiting for its callback. -/
theorem dispatchInvokesAcceptedPin : Obligations.DispatchInvokesAcceptedPin := by
  intro s p i hs q lowest enabled settled pins
  have accepted := State.portService_of_accepts hs ⟨lowest, enabled, settled⟩
  have pins_eq : (q.accept i s.cnt).pins = pins := q.accept_pins i s.cnt
  refine ⟨fun none => ?_, fun some => ⟨(q.clearFlag i).ifg, ?_, getLsbD_clearFlag q i⟩⟩
  · rw [State.serve, accepted, if_pos none, State.modPort, Port.accept_eq, pins_eq]; rfl
  · rw [State.serve, accepted, if_neg some, State.modPort, Port.accept_eq, pins_eq]; rfl

/-- A dispatch accepts an event, or it invokes nothing and keeps the pin table and the external levels. -/
theorem State.portService_inversion {s : State} {p : Nat} (hs : s.supported p = true) :
    (∃ i, s.Accepts p i) ∨
      ∃ f : Port → Port, (∀ q, (f q).pins = q.pins ∧ (f q).ext = q.ext) ∧
        s.portService p = (s.modPort p f).setEng .idle := by
  obtain ⟨-, e⟩ | ⟨i, hl, ⟨-, e⟩ | ⟨-, -, -, e⟩ | ⟨enabled, k, hk, -⟩⟩ := State.portService_cases hs
  · exact .inr ⟨fun q => q.enter.countSpurious.finish, fun _ => ⟨rfl, rfl⟩, e⟩
  · exact .inr ⟨fun q => (q.dispatched i).countSpurious.finish, fun _ => ⟨rfl, rfl⟩, e⟩
  · exact .inr ⟨fun q => (q.dispatched i).countBounce.finish, fun _ => ⟨rfl, rfl⟩, e⟩
  · refine .inl ⟨i, lowestPin_eq_some.mp hl, enabled, fun deb => ?_⟩
    obtain ⟨noDeb, -⟩ | ⟨-, late, -⟩ := hk
    · exact absurd (noDeb.symm.trans deb) Bool.false_ne_true
    · exact lt_sub_iff_lt_elapsed.mp late

end Sys2Proof.Machine
end

section
/-! What an act writes and what it leaves alone, field by field: the frames of the commands' effects, of TICK, ENV and the
services, put together over the acts of a step. -/

namespace Sys2Proof.Machine
open Sys2Proof.Claims

/-! ### Effects of commands -/

/-- A register write changes the ports, and the count of draws. -/
theorem State.writePortReg_frame (s : State) (p : Nat) (v : Byte) (reg : PortReg) :
    s.writePortReg p v reg =
      { s with ports := (s.writePortReg p v reg).ports, draws := (s.writePortReg p v reg).draws } := by
  obtain ⟨f, h | h, -⟩ := s.writePortReg_modPort p v reg
  · rw [h]; rfl
  · rw [h]; rfl

section
variable {s t : State} {i : Instr}

/-- Which unit a command's effect writes: the timer's, the ports', GIE, or ENG with the ports. -/
theorem Effect.unit_cases (h : Effect s i t) :
    (TimerCommand i ∧ t = { s with
      cnt := t.cnt, run := t.run, round := t.round, ovf := t.ovf, channels := t.channels }) ∨
    (GpioCommand i ∧ t = { s with
      ports := t.ports, ginitDone := t.ginitDone, flagMultibit := t.flagMultibit, draws := t.draws }) ∨
    (i = .intctl t.gie ∧ t = { s with gie := t.gie }) ∨
    (i = .cbdone ∧ t = { s with eng := .idle, ports := t.ports }) := by
  cases h with
  | tinit => exact .inl ⟨trivial, rfl⟩
  | tset => exact .inl ⟨trivial, rfl⟩
  | tunset => exact .inl ⟨trivial, rfl⟩
  | ginit => exact .inr (.inl ⟨trivial, rfl⟩)
  | gsetDisable => exact .inr (.inl ⟨trivial, rfl⟩)
  | gset => exact .inr (.inl ⟨trivial, rfl⟩)
  | vector => exact .inr (.inl ⟨trivial, rfl⟩)
  | @pwr port reg v =>
    refine .inr (.inl ⟨trivial, ?_⟩)
    rw [s.writePortReg_frame]
  | intctl => exact .inr (.inr (.inl ⟨rfl, rfl⟩))
  | timerReturn => exact .inr (.inr (.inr ⟨rfl, rfl⟩))
  | gpioReturn => exact .inr (.inr (.inr ⟨rfl, rfl⟩))

theorem Effect.gie (h : Effect s i t) : t.gie = s.gie ∨ i = .intctl t.gie := by
  obtain ⟨-, e⟩ | ⟨-, e⟩ | ⟨rfl, -⟩ | ⟨-, e⟩ := h.unit_cases
  · exact .inl (by rw [e])
  · exact .inl (by rw [e])
  · exact .inr rfl
  · exact .inl (by rw [e])

theorem Effect.eng (h : Effect s i t) : t.eng = s.eng ∨ (i = .cbdone ∧ t.eng = .idle) := by
  obtain ⟨-, e⟩ | ⟨-, e⟩ | ⟨-, e⟩ | ⟨rfl, e⟩ := h.unit_cases
  · exact .inl (by rw [e])
  · exact .inl (by rw [e])
  · exact .inl (by rw [e])
  · exact .inr ⟨rfl, by rw [e]⟩

/-- Only TINIT writes the clock (40_timer.md R131). -/
theorem Effect.clock (h : Effect s i t) :
    (t.cnt = s.cnt ∧ t.round = s.round ∧ t.ovf = s.ovf ∧ t.run = s.run) ∨
      (i = .tinit ∧ t.round = 0 ∧ t.run = true) := by
  cases h with
  | tinit => exact .inr ⟨rfl, rfl, rfl⟩
  | @pwr port reg v =>
    have e := s.writePortReg_frame port.toNat v reg
    exact .inl ⟨by rw [e], by rw [e], by rw [e], by rw [e]⟩
  | _ => exact .inl ⟨rfl, rfl, rfl, rfl⟩

/-- FLAG_MULTIBIT and GINIT_DONE: GSET, which needs GINIT_DONE, may set the one, and GINIT sets the other. -/
theorem Effect.gpio_bits (h : Effect s i t) :
    (t.flagMultibit = s.flagMultibit ∧ (t.ginitDone = s.ginitDone ∨ t.ginitDone = true)) ∨
      (s.ginitDone = true ∧ t.ginitDone = true ∧ (s.flagMultibit = true → t.flagMultibit = true)) := by
  cases h with
  | ginit => exact .inl ⟨rfl, .inr rfl⟩
  | gset hg => exact .inr ⟨hg, hg, fun set => by simp [set]⟩
  | @pwr port reg v =>
    have e := s.writePortReg_frame port.toNat v reg
    exact .inl ⟨by rw [e], .inl (by rw [e])⟩
  | _ => exact .inl ⟨rfl, .inl rfl⟩

/-- What a command's effect makes of one channel (40_timer.md R131, R134, R135). -/
theorem Effect.chan_cases (h : Effect s i t) (c : Nat) :
    t.chan c = s.chan c ∨
    ((i = .tinit ∨ ∃ ch, ch.toNat = c ∧ i = .tunset ch) ∧ t.chan c = (s.chan c).disarm) ∨
    (s.run = true ∧ ∃ ch cb cmp r, ch.toNat = c ∧ i = .tset ch cb cmp r ∧ t.chan c = (s.chan c).arm cmp r cb) := by
  have quiet (e : t.channels = s.channels) : t.chan c = s.chan c := congrArg (·.getD c Channel.reset) e
  cases h with
  | tinit =>
    by_cases hc : c < s.n
    · refine .inr (.inl ⟨.inl rfl, ?_⟩)
      have hc' : c < s.channels.length := hc
      simp [State.chan, hc']
    · rw [State.chan_out (s := s) (by omega), State.chan_out (by simpa [State.n] using hc)]
      exact .inl rfl
  | @tset ch cb cmp r run hc =>
    by_cases e : c = ch.toNat
    · refine .inr (.inr ⟨run, ch, cb, cmp, r, e.symm, rfl, ?_⟩)
      rw [State.chan_modChan c _ hc, if_pos e, e]
    · exact .inl (State.chan_modChan_ne _ e)
  | @tunset ch hc =>
    by_cases e : c = ch.toNat
    · refine .inr (.inl ⟨.inr ⟨ch, e.symm, rfl⟩, ?_⟩)
      rw [State.disarm, State.chan_modChan c _ hc, if_pos e, e]
    · exact .inl (State.chan_modChan_ne _ e)
  | @pwr port reg v => exact .inl (quiet (by rw [s.writePortReg_frame]))
  | _ => exact .inl (quiet rfl)

/-- The pin tables after a command: GINIT clears them, GSET registers one pin (41_gpio.md R174, R175). -/
theorem Effect.pins_cases (h : Effect s i t) (p : Nat) :
    (t.port p).pins = (s.port p).pins ∨
    (i = .ginit ∧ t.ginitDone = true ∧ (t.port p).pins = Pin.table) ∨
    (s.ginitDone = true ∧ ∃ k cb deb, (t.port p).pins = ((s.port p).register k cb deb).pins) := by
  have kept (c : Nat) (f : Port → Port) (hf : ∀ q, (f q).pins = q.pins) :
      ((s.modPort c f).port p).pins = (s.port p).pins := State.port_modPort_keep Port.pins hf c p
  cases h with
  | ginit =>
    rw [s.port_ginit]
    by_cases hs : s.supported p = true
    · rw [if_pos hs]; exact .inr (.inl ⟨rfl, rfl, rfl⟩)
    · rw [if_neg hs]; exact .inl rfl
  | gsetDisable => exact .inl (kept _ _ fun q => by simp)
  | @gset port mask flags cb hg hs =>
    by_cases e : p = port.toNat
    · rw [e, s.port_gsetConfigure _ _ _ hs, Port.gset_pins]
      exact .inr (.inr ⟨hg, _, _, _, rfl⟩)
    · rw [s.port_gsetConfigure_ne _ _ _ e]
      exact .inl rfl
  | vector => exact .inl (kept _ _ fun q => rfl)
  | gpioReturn => exact .inl (kept _ _ fun q => rfl)
  | @pwr port reg v =>
    obtain ⟨f, h, hf⟩ := s.writePortReg_modPort port.toNat v reg
    have same : ∀ q, (f q).pins = q.pins := fun q => by
      obtain ⟨-, -, pins, -⟩ := hf q
      exact pins
    obtain h | h := h
    · rw [h]; exact .inl (kept _ f same)
    · rw [h, State.port_countDraw]; exact .inl (kept _ f same)
  | _ => exact .inl rfl

/-- While a callback of port `p` is outstanding, a command that does not end it keeps the live IE[p] (41_gpio.md R172). -/
theorem Effect.ie_of_serving (h : Effect s i t) {p : Nat} (serving : s.serving p = true) (waits : t.eng = s.eng) :
    (t.port p).ie = (s.port p).ie := by
  have kept (c : Nat) (f : Port → Port) (hf : c = p → ∀ q, (f q).ie = q.ie) :
      ((s.modPort c f).port p).ie = (s.port p).ie := by
    by_cases e : c = p
    · exact State.port_modPort_keep Port.ie (hf e) c p
    · rw [State.port_modPort_ne f (Ne.symm e)]
  cases h with
  | ginit =>
    rw [s.port_ginit]
    split
    · rfl
    · rfl
  | @gsetDisable port =>
    exact kept _ _ fun e q => by rw [e, serving]; rfl
  | @gset port mask flags cb hg hs =>
    exact kept port.toNat (Port.gset (s.serving port.toNat) mask (decodeFlags flags) cb s.spuriousBits) fun e q => by
      rw [e, serving]; rfl
  | vector => exact kept _ _ fun _ q => rfl
  | gpioReturn he =>
    rw [he] at waits
    cases waits
  | @pwr port reg v =>
    obtain ⟨f, h, hf⟩ := s.writePortReg_modPort port.toNat v reg
    have same (e : port.toNat = p) (q : Port) : (f q).ie = q.ie := by
      obtain ⟨-, -, -, -, -, ie⟩ := hf q
      exact ie (e ▸ serving)
    obtain h | h := h
    · rw [h]; exact kept _ f same
    · rw [h, State.port_countDraw]; exact kept _ f same
  | _ => rfl

end

/-! ### TICK, ENV and the latch update -/

section
variable (s : State)

/-- TICK writes the counter, OVF, FAULT_OVF_MISSED and the channels (60_exceptions.md R233). -/
theorem State.tick_frame :
    s.tick = { s with
      cnt := s.tick.cnt, faultOvfMissed := s.tick.faultOvfMissed, ovf := s.tick.ovf, channels := s.tick.channels } := by
  obtain run | run := Bool.eq_false_or_eq_true s.run
  · rw [State.tick_of_run run]
  · rw [State.tick_of_stopped run]

@[simp] theorem State.port_tick (p : Nat) : s.tick.port p = s.port p :=
  State.port_congr (by rw [s.tick_frame]) (by rw [s.tick_frame]) p

@[simp] theorem State.length_tick : s.tick.channels.length = s.channels.length := by
  cases run : s.run with
  | false => rw [State.tick_of_stopped run]
  | true => rw [State.tick_of_run run]; exact List.length_map _

/-- A channel after TICK is compared with some count where RUN = 1. -/
theorem State.chan_tick_cases (c : Nat) :
    s.tick.chan c = s.chan c ∨ (s.run = true ∧ ∃ n, s.tick.chan c = (s.chan c).compare n) := by
  cases run : s.run with
  | false => rw [State.tick_of_stopped run]; exact .inl rfl
  | true =>
    rw [State.tick_of_run run]
    by_cases hc : c < s.n
    · have hc' : c < s.channels.length := hc
      exact .inr ⟨rfl, s.cnt + 1, by simp [State.chan, hc']⟩
    · rw [State.chan_out (s := s) (by omega), State.chan_out (by simpa [State.n] using hc)]
      exact .inl rfl

variable {s}

/-- What the latch update of a port keeps, it keeps of every port. -/
theorem State.port_updateLatches_of {α : Type} (g : Port → α) (hg : ∀ q, g q.latch = g q) (k : Nat) :
    g (s.updateLatches.port k) = g (s.port k) := by
  rw [State.port_updateLatches]
  split
  · exact hg _
  · rfl

/-- ENV writes the external levels and the flags of its port (41_gpio.md R181). -/
theorem State.port_pin (p : Nat) (v : Byte) (k : Nat) :
    (s.pin p v).port k = s.port k ∨
      (k = p ∧ (s.pin p v).port k = { s.port k with ext := v, ifg := ((s.pin p v).port k).ifg }) := by
  by_cases e : k = p
  · subst e
    cases hs : s.supported k with
    | true =>
      refine .inr ⟨rfl, ?_⟩
      rw [State.pin, State.port_modPort k _ hs, if_pos rfl]
      rfl
    | false => rw [State.pin, State.modPort_out _ hs]; exact .inl rfl
  · exact .inl (State.port_modPort_ne _ e)

end

/-! ### Services -/

section
variable {s : State}

/-- Only the overflow service writes OVF and ROUND (60_exceptions.md R238). -/
theorem State.serve_clock {svc : Service} (h : s.enabled svc = true) (other : svc ≠ .overflow) :
    (s.serve svc).round = s.round ∧ (s.serve svc).ovf = s.ovf := by
  cases svc with
  | overflow => exact absurd rfl other
  | cmp0 => exact ⟨by rw [State.serve, s.cmp0Service_frame.1], by rw [State.serve, s.cmp0Service_frame.1]⟩
  | cmpv => exact ⟨by rw [State.serve, s.cmpvService_frame.1], by rw [State.serve, s.cmpvService_frame.1]⟩
  | port p =>
    obtain ⟨e, -⟩ := State.portService_frame (State.enabled_supported h)
    exact ⟨by rw [State.serve, e], by rw [State.serve, e]⟩

/-- The overflow service adds 1 to the round and clears OVF (60_exceptions.md R238). -/
theorem State.serve_overflow_clock (s : State) :
    (s.serve .overflow).round = s.round + 1 ∧ (s.serve .overflow).ovf = false :=
  ⟨by rw [State.serve, s.overflowService_frame.1], by rw [State.serve, s.overflowService_frame.1]⟩

/-- Only its own service clears a latch of the timer (60_exceptions.md R241, R242). -/
theorem State.serve_latches {svc : Service} (h : s.enabled svc = true) :
    (svc ≠ .cmp0 → (s.serve svc).cpend0 = s.cpend0) ∧ (svc ≠ .cmpv → (s.serve svc).cpendv = s.cpendv) := by
  cases svc with
  | overflow =>
    exact ⟨fun _ => by rw [State.serve, s.overflowService_frame.1], fun _ => by rw [State.serve, s.overflowService_frame.1]⟩
  | cmp0 => exact ⟨fun other => absurd rfl other, fun _ => by rw [State.serve, s.cmp0Service_frame.1]⟩
  | cmpv => exact ⟨fun _ => by rw [State.serve, s.cmpvService_frame.1], fun other => absurd rfl other⟩
  | port p =>
    obtain ⟨e, -⟩ := State.portService_frame (State.enabled_supported h)
    exact ⟨fun _ => by rw [State.serve, e], fun _ => by rw [State.serve, e]⟩

/-- A timer service leaves the ports alone. -/
theorem State.serve_timer_ports {svc : Service} (timer : ∀ p, svc ≠ .port p) :
    (s.serve svc).ports = s.ports ∧ (s.serve svc).portMin = s.portMin := by
  cases svc with
  | overflow => exact ⟨by rw [State.serve, s.overflowService_frame.1], by rw [State.serve, s.overflowService_frame.1]⟩
  | cmp0 => exact ⟨by rw [State.serve, s.cmp0Service_frame.1], by rw [State.serve, s.cmp0Service_frame.1]⟩
  | cmpv => exact ⟨by rw [State.serve, s.cmpvService_frame.1], by rw [State.serve, s.cmpvService_frame.1]⟩
  | port p => exact absurd rfl (timer p)

/-- A service of another kind leaves a port alone. -/
theorem State.serve_port_of_ne {svc : Service} {p : Nat} (h : s.enabled svc = true) (other : svc ≠ .port p) :
    (s.serve svc).port p = s.port p := by
  cases svc with
  | port k =>
    obtain ⟨-, -, frame⟩ := State.portService_frame (State.enabled_supported h)
    exact frame p fun e => other (by rw [e])
  | overflow =>
    obtain ⟨ports, min⟩ := s.serve_timer_ports (svc := .overflow) nofun
    exact State.port_congr ports min p
  | cmp0 =>
    obtain ⟨ports, min⟩ := s.serve_timer_ports (svc := .cmp0) nofun
    exact State.port_congr ports min p
  | cmpv =>
    obtain ⟨ports, min⟩ := s.serve_timer_ports (svc := .cmpv) nofun
    exact State.port_congr ports min p

/-- What a dispatch makes of its own port: an event is accepted, swallowed or invoking a callback, or nothing is invoked
and the pin table and the external levels stay. -/
theorem State.serve_port_cases {p : Nat} (hs : s.supported p = true) :
    (∃ i, s.Accepts p i ∧ (s.port p).pins[i].cb ≠ 0 ∧
      (s.serve (.port p)).port p = (s.port p).accept i s.cnt ∧
      (s.serve (.port p)).eng = .waitGpio p i (s.port p).pins[i].cb ∧
      (s.serve (.port p)).trace = .callback (s.port p).pins[i].cb (.gpio p i) :: s.trace) ∨
    ((s.serve (.port p)).eng = .idle ∧ (s.serve (.port p)).trace = s.trace ∧
      ((∃ i, s.Accepts p i ∧ (s.serve (.port p)).port p = ((s.port p).accept i s.cnt).finish) ∨
        (((s.serve (.port p)).port p).pins = (s.port p).pins ∧
          ((s.serve (.port p)).port p).ext = (s.port p).ext))) := by
  have port (f : Port → Port) : (s.modPort p f).port p = f (s.port p) := by
    rw [State.port_modPort p f hs, if_pos rfl]
  rw [State.serve]
  obtain ⟨i, accepts⟩ | ⟨f, kept, e⟩ := State.portService_inversion hs
  · rw [State.portService_of_accepts hs accepts]
    by_cases none : (s.port p).pins[i].cb = 0
    · rw [if_pos none]
      exact .inr ⟨rfl, rfl, .inl ⟨i, accepts, port fun q => (q.accept i s.cnt).finish⟩⟩
    · rw [if_neg none]
      exact .inl ⟨i, accepts, none, port _, rfl, rfl⟩
  · rw [e]
    obtain ⟨pins, ext⟩ := kept (s.port p)
    exact .inr ⟨rfl, rfl, .inr ⟨by rw [State.port_setEng, port, pins], by rw [State.port_setEng, port, ext]⟩⟩

/-- No service moves the external levels. -/
theorem State.serve_ext {svc : Service} (h : s.enabled svc = true) (p : Nat) :
    ((s.serve svc).port p).ext = (s.port p).ext := by
  by_cases e : svc = .port p
  · subst e
    obtain ⟨i, -, -, port, -⟩ | ⟨-, -, ⟨i, -, port⟩ | ⟨-, ext⟩⟩ := State.serve_port_cases (State.enabled_supported h)
    · rw [port, Port.accept_eq]
    · rw [port, Port.accept_eq]; rfl
    · exact ext
  · rw [State.serve_port_of_ne h e]

/-- An enabled service invokes nothing, or a timer service fires a slot with a callback, or a port dispatch accepts an
event of a pin with a callback (60_exceptions.md R243, R249). -/
theorem State.serve_callback_cases {svc : Service} (h : s.enabled svc = true) :
    ((s.serve svc).eng = .idle ∧ (s.serve svc).trace = s.trace) ∨
    (∃ c, s.Fires svc c ∧ s.Fired (s.serve svc) c ∧ (s.chan c).callback ≠ 0 ∧
      (s.serve svc).eng = .waitTimer c (s.chan c).callback ∧
      (s.serve svc).trace = .callback (s.chan c).callback (.timer c) :: s.trace) ∨
    (∃ p i, svc = .port p ∧ s.Accepts p i ∧ (s.port p).pins[i].cb ≠ 0 ∧
      (s.serve svc).port p = (s.port p).accept i s.cnt ∧
      (s.serve svc).eng = .waitGpio p i (s.port p).pins[i].cb ∧
      (s.serve svc).trace = .callback (s.port p).pins[i].cb (.gpio p i) :: s.trace) := by
  obtain ⟨idle, -⟩ := State.enabled_idle h
  by_cases timer : ∀ p, svc ≠ .port p
  · obtain ⟨c, fires, fired⟩ | ⟨-, eng, trace⟩ := s.serve_timer_cases timer
    · obtain ⟨-, eng, trace⟩ | ⟨some, eng, trace⟩ := fired.callback
      · exact .inl ⟨eng.trans idle, trace⟩
      · exact .inr (.inl ⟨c, fires, fired, some, eng, trace⟩)
    · exact .inl ⟨eng.trans idle, trace⟩
  · obtain ⟨p, rfl⟩ : ∃ p, svc = .port p := by simpa using timer
    obtain ⟨i, accepts, some, port, eng, trace⟩ | ⟨eng, trace, -⟩ :=
      State.serve_port_cases (State.enabled_supported h)
    · exact .inr (.inr ⟨p, i, rfl, accepts, some, port, eng, trace⟩)
    · exact .inl ⟨eng, trace⟩

/-- A slot that fires is due when the service ends (60_exceptions.md R238, R240). -/
theorem State.Fires.due {svc : Service} {c : Nat} (h : s.Fires svc c) :
    Due (s.chan c).targetRound (s.serve svc).round := by
  cases svc with
  | overflow =>
    obtain ⟨-, -, round, -⟩ := h
    rw [round, s.serve_overflow_clock.1]
    exact due_self _
  | cmp0 =>
    obtain ⟨-, -, -, due⟩ := h
    rwa [State.serve, s.cmp0Service_frame.1]
  | cmpv =>
    obtain ⟨-, -, -, due⟩ := h
    rwa [State.serve, s.cmpvService_frame.1]
  | port p => exact h.elim

/-- The pin table after an enabled service: stamped for an accepted event of a debounced pin, else kept. -/
theorem State.serve_pins_cases {svc : Service} (h : s.enabled svc = true) (p : Nat) :
    ((s.serve svc).port p).pins = (s.port p).pins ∨
      (svc = .port p ∧ ∃ i, s.Accepts p i ∧ (s.port p).pins[i].deb = true ∧
        ((s.serve svc).port p).pins = (s.port p).pins.set i.val { (s.port p).pins[i] with last := s.cnt }) := by
  have accepted {q : Port} (i : Fin 8) (accepts : s.Accepts p i) (hq : q.pins = ((s.port p).accept i s.cnt).pins) :
      q.pins = (s.port p).pins ∨ ∃ i, s.Accepts p i ∧ (s.port p).pins[i].deb = true ∧
        q.pins = (s.port p).pins.set i.val { (s.port p).pins[i] with last := s.cnt } := by
    rw [Port.accept_pins] at hq
    cases deb : (s.port p).pins[i].deb with
    | true => rw [deb, if_pos rfl] at hq; exact .inr ⟨i, accepts, deb, hq⟩
    | false => rw [deb, if_neg Bool.false_ne_true] at hq; exact .inl hq
  by_cases e : svc = .port p
  · subst e
    obtain ⟨i, accepts, -, port, -⟩ | ⟨-, -, ⟨i, accepts, port⟩ | ⟨pins, -⟩⟩ :=
      State.serve_port_cases (State.enabled_supported h)
    · exact (accepted i accepts (by rw [port])).imp id fun stamped => ⟨rfl, stamped⟩
    · exact (accepted i accepts (by rw [port]; rfl)).imp id fun stamped => ⟨rfl, stamped⟩
    · exact .inl pins
  · exact .inl (congrArg Port.pins (State.serve_port_of_ne h e))

/-- The channels after a service: one slot fired, or one matched channel lost its flag, or none changed. -/
theorem State.serve_chan_cases {svc : Service} (h : s.enabled svc = true) (c : Nat) :
    (s.serve svc).chan c = s.chan c ∨
    (s.Fires svc c ∧ s.Fired (s.serve svc) c ∧ (s.serve svc).chan c = (s.chan c).disarm) ∨
    (Matched (s.chan c) ∧ (s.serve svc).chan c = (s.chan c).clearFlag) := by
  have written {t : State} {k : Nat} {ch : Channel} (hk : k < s.n) (e : t.channels = s.channels.set k ch) :
      t.chan c = if c = k then ch else s.chan c :=
    (congrArg (·.getD c Channel.reset) e).trans (State.chan_setChan c ch hk)
  have quiet {t : State} (e : t.channels = s.channels) : t.chan c = s.chan c :=
    congrArg (·.getD c Channel.reset) e
  by_cases timer : ∀ p, svc ≠ .port p
  · obtain ⟨k, fires, fired⟩ | ⟨channels, -, -⟩ := s.serve_timer_cases timer
    · have chan := written (State.lt_n_of_armed fires.armed) fired.channels
      by_cases e : c = k
      · subst e
        exact .inr (.inl ⟨fires, fired, by rw [chan, if_pos rfl]⟩)
      · exact .inl (by rw [chan, if_neg e])
    · obtain same | ⟨k, hk, matched, channels⟩ := channels
      · exact .inl (quiet same)
      · have chan := written hk channels
        by_cases e : c = k
        · subst e
          exact .inr (.inr ⟨matched, by rw [chan, if_pos rfl]⟩)
        · exact .inl (by rw [chan, if_neg e])
  · obtain ⟨p, rfl⟩ : ∃ p, svc = .port p := by simpa using timer
    obtain ⟨e, -⟩ := State.portService_frame (State.enabled_supported h)
    exact .inl (quiet (by rw [State.serve, e]))

end

end Sys2Proof.Machine
end

section
/-! What holds of every step of every state (10_state.md, 60_exceptions.md sections 2 to 6): each field is written by the
acts that may write it and by no other. -/

namespace Sys2Proof.Machine
open Sys2Proof.Claims

/-! ### The next turn taken: the same slots and pins -/

theorem State.fired_popTurn {s t : State} {c : Nat} (h : s.popTurn.Fired t c) : s.Fired t c := ⟨h.channels, h.callback⟩

theorem State.accepts_popTurn {s : State} {p : Nat} {i : Fin 8} (h : s.popTurn.Accepts p i) : s.Accepts p i :=
  ⟨h.lowest, h.enabled, h.settled⟩

section
variable {s u : State}

/-! ### What an act writes -/

theorem Act.parameters (h : Act s u) :
    u.settings = s.settings ∧ u.portMin = s.portMin ∧ u.channels.length = s.channels.length ∧
      u.ports.length = s.ports.length := by
  cases h with
  | answer => exact ⟨rfl, rfl, rfl, rfl⟩
  | command _ _ effect =>
    obtain ⟨-, -, settings, portMin, -, -, -, -, -, -, channels, ports⟩ := effect.frame
    exact ⟨settings, portMin, channels, ports⟩
  | tick =>
    have e := s.popTurn.tick_frame
    exact ⟨by rw [e]; rfl, by rw [e]; rfl, s.popTurn.length_tick, by rw [e]; rfl⟩
  | pin => exact ⟨rfl, rfl, rfl, State.length_modPort (s := s.popTurn) _ _⟩
  | serve _ on =>
    obtain ⟨e, channels, ports⟩ := State.serve_frame (s := s.popTurn) on
    exact ⟨by rw [e]; rfl, by rw [e]; rfl, channels, ports⟩

theorem Act.supported (h : Act s u) (p : Nat) : u.supported p = s.supported p := by
  obtain ⟨-, portMin, -, ports⟩ := h.parameters
  rw [State.supported, State.supported, portMin, ports]

/-- ENV alone moves the external levels (41_gpio.md R181). -/
theorem Act.ext (h : Act s u) (p : Nat) : (u.port p).ext = (s.port p).ext ∨ s.nextTurn = .pin p (u.port p).ext := by
  cases h with
  | answer => exact .inl rfl
  | command _ _ effect => exact .inl (congrArg Prod.fst (effect.port_outer p))
  | tick => exact .inl (congrArg Port.ext (s.popTurn.port_tick p))
  | @pin k v turn _ =>
    obtain same | ⟨rfl, moved⟩ := State.port_pin (s := s.popTurn) k v p
    · exact .inl (congrArg Port.ext same)
    · refine .inr (turn.trans ?_)
      rw [State.port_log, moved]
  | serve _ on => exact .inl (State.serve_ext (s := s.popTurn) on p)

/-- Only its own service clears a port's latch (60_exceptions.md R244). -/
theorem Act.pend (h : Act s u) (p : Nat) :
    (u.port p).pend = (s.port p).pend ∨ (s.nextTurn = .engine (.port p) ∧ s.enabled (.port p) = true) := by
  cases h with
  | answer => exact .inl rfl
  | command _ _ effect => exact .inl (congrArg (fun outer => outer.2.1) (effect.port_outer p))
  | tick => exact .inl (congrArg Port.pend (s.popTurn.port_tick p))
  | @pin k v =>
    obtain same | ⟨-, moved⟩ := State.port_pin (s := s.popTurn) k v p
    · exact .inl (congrArg Port.pend same)
    · exact .inl (by rw [State.port_log, moved]; rfl)
  | @serve svc turn on =>
    by_cases e : svc = .port p
    · exact .inr ⟨e ▸ turn, e ▸ on⟩
    · exact .inl (congrArg Port.pend (State.serve_port_of_ne (s := s.popTurn) on e))

/-- Only their own services clear the latches of the timer (60_exceptions.md R241, R242). -/
theorem Act.latches (h : Act s u) :
    (u.cpend0 = s.cpend0 ∨ (s.nextTurn = .engine .cmp0 ∧ s.enabled .cmp0 = true)) ∧
      (u.cpendv = s.cpendv ∨ (s.nextTurn = .engine .cmpv ∧ s.enabled .cmpv = true)) := by
  cases h with
  | answer => exact ⟨.inl rfl, .inl rfl⟩
  | command _ _ effect =>
    obtain ⟨-, -, -, -, -, -, -, cpend0, cpendv, -⟩ := effect.frame
    exact ⟨.inl cpend0, .inl cpendv⟩
  | tick =>
    have e := s.popTurn.tick_frame
    exact ⟨.inl (by rw [e]; rfl), .inl (by rw [e]; rfl)⟩
  | pin => exact ⟨.inl rfl, .inl rfl⟩
  | @serve svc turn on =>
    obtain ⟨cpend0, cpendv⟩ := State.serve_latches (s := s.popTurn) on
    constructor
    · by_cases e : svc = .cmp0
      · exact .inr ⟨e ▸ turn, e ▸ on⟩
      · exact .inl (cpend0 e)
    · by_cases e : svc = .cmpv
      · exact .inr ⟨e ▸ turn, e ▸ on⟩
      · exact .inl (cpendv e)

/-- The clock moves by TICK, by TINIT and by the overflow service (10_state.md R34, R35, R64). -/
theorem Act.clock (h : Act s u) :
    (u.cnt = s.cnt ∧ u.round = s.round ∧ u.ovf = s.ovf) ∨
    (s.nextTurn = .tick ∧ s.run = true ∧ u.round = s.round) ∨
    (Issues s .tinit ∧ u.round = 0 ∧ u.run = true) ∨
    (s.nextTurn = .engine .overflow ∧ s.enabled .overflow = true ∧ s.ovf = true ∧
      u.cnt = s.cnt ∧ u.round = s.round + 1 ∧ u.ovf = false) := by
  cases h with
  | answer => exact .inl ⟨rfl, rfl, rfl⟩
  | @command cmd data i _ turn decoded effect =>
    obtain ⟨cnt, round, ovf, -⟩ | ⟨rfl, round, run⟩ := effect.clock
    · exact .inl ⟨cnt, round, ovf⟩
    · exact .inr (.inr (.inl ⟨⟨cmd, data, turn, decoded⟩, round, run⟩))
  | tick turn =>
    obtain run | stopped := Bool.eq_false_or_eq_true s.run
    · exact .inr (.inl ⟨turn, run, by rw [s.popTurn.tick_frame]; rfl⟩)
    · rw [State.tick_of_stopped (s := s.popTurn) stopped]
      exact .inl ⟨rfl, rfl, rfl⟩
  | pin => exact .inl ⟨rfl, rfl, rfl⟩
  | @serve svc turn on =>
    obtain ⟨e, -⟩ := State.serve_frame (s := s.popTurn) on
    have cnt : (s.popTurn.serve svc).cnt = s.cnt := by rw [e]; rfl
    by_cases overflow : svc = .overflow
    · subst overflow
      obtain ⟨round, ovf⟩ := s.popTurn.serve_overflow_clock
      exact .inr (.inr (.inr ⟨turn, on, State.mem_requested.mp (State.enabled_requested on), cnt, round, ovf⟩))
    · obtain ⟨round, ovf⟩ := State.serve_clock (s := s.popTurn) on overflow
      exact .inl ⟨cnt, round, ovf⟩

/-- Only INTCTL writes GIE (42_control.md R211). -/
theorem Act.gie (h : Act s u) : u.gie = s.gie ∨ Issues s (.intctl u.gie) := by
  cases h with
  | answer => exact .inl rfl
  | @command cmd data i _ turn decoded effect =>
    obtain same | rfl := effect.gie
    · exact .inl same
    · exact .inr ⟨cmd, data, turn, decoded⟩
  | tick => exact .inl (by rw [s.popTurn.tick_frame]; rfl)
  | pin => exact .inl rfl
  | serve _ on => exact .inl (by rw [(State.serve_frame (s := s.popTurn) on).1]; rfl)

/-- RUN is set by TINIT and cleared by nothing (10_state.md R33). -/
theorem Act.run (h : Act s u) : u.run = s.run ∨ u.run = true := by
  cases h with
  | answer => exact .inl rfl
  | command _ _ effect =>
    obtain ⟨-, -, -, run⟩ | ⟨-, -, run⟩ := effect.clock
    · exact .inl run
    · exact .inr run
  | tick => exact .inl (by rw [s.popTurn.tick_frame]; rfl)
  | pin => exact .inl rfl
  | serve _ on => exact .inl (by rw [(State.serve_frame (s := s.popTurn) on).1]; rfl)

/-- FLAG_MULTIBIT is set by GSET, which GINIT precedes, and GINIT_DONE by GINIT (10_state.md R56, R60). -/
theorem Act.gpio_bits (h : Act s u) :
    (u.flagMultibit = s.flagMultibit ∧ (u.ginitDone = s.ginitDone ∨ u.ginitDone = true)) ∨
      (s.ginitDone = true ∧ u.ginitDone = true ∧ (s.flagMultibit = true → u.flagMultibit = true)) := by
  cases h with
  | answer => exact .inl ⟨rfl, .inl rfl⟩
  | command _ _ effect => exact effect.gpio_bits
  | tick =>
    have e := s.popTurn.tick_frame
    exact .inl ⟨by rw [e]; rfl, .inl (by rw [e]; rfl)⟩
  | pin => exact .inl ⟨rfl, .inl rfl⟩
  | serve _ on =>
    obtain ⟨e, -⟩ := State.serve_frame (s := s.popTurn) on
    exact .inl ⟨by rw [e]; rfl, .inl (by rw [e]; rfl)⟩

/-- A lost wrap is of a counter that runs with an overflow in flight (60_exceptions.md R233). -/
theorem Act.faultOvfMissed (h : Act s u) :
    u.faultOvfMissed = s.faultOvfMissed ∨ (s.run = true ∧ (s.faultOvfMissed = true → u.faultOvfMissed = true)) := by
  cases h with
  | answer => exact .inl rfl
  | command _ _ effect =>
    obtain ⟨-, missed, -⟩ := effect.frame
    exact .inl missed
  | tick =>
    obtain run | run := Bool.eq_false_or_eq_true s.run
    · refine .inr ⟨run, fun set => ?_⟩
      rw [State.tick_of_run (s := s.popTurn) run]
      simp [set]
    · exact .inl (by rw [State.tick_of_stopped (s := s.popTurn) run]; rfl)
  | pin => exact .inl rfl
  | serve _ on => exact .inl (by rw [(State.serve_frame (s := s.popTurn) on).1]; rfl)

theorem Act.faultUninit (h : Act s u) : s.faultUninit = true → u.faultUninit = true := by
  cases h with
  | answer _ sticky => exact sticky
  | command _ _ effect =>
    obtain ⟨uninit, -⟩ := effect.frame
    exact fun set => uninit.trans set
  | tick => exact fun set => by rw [s.popTurn.tick_frame]; exact set
  | pin => exact id
  | serve _ on => exact fun set => by rw [(State.serve_frame (s := s.popTurn) on).1]; exact set

/-- What an act makes of one channel: a command, a firing, a lost match flag, or a compare. -/
theorem Act.chan_cases (h : Act s u) (c : Nat) :
    u.chan c = s.chan c ∨
    ((Issues s .tinit ∨ ∃ ch, ch.toNat = c ∧ Issues s (.tunset ch)) ∧ u.chan c = (s.chan c).disarm) ∨
    (∃ svc, s.nextTurn = .engine svc ∧ s.enabled svc = true ∧ s.Fires svc c ∧ s.Fired u c ∧
      Due (s.chan c).targetRound u.round ∧ u.chan c = (s.chan c).disarm) ∨
    (Matched (s.chan c) ∧ u.chan c = (s.chan c).clearFlag) ∨
    (s.run = true ∧ ((∃ n, u.chan c = (s.chan c).compare n) ∨
      ∃ ch cb cmp r, ch.toNat = c ∧ Issues s (.tset ch cb cmp r) ∧ u.chan c = (s.chan c).arm cmp r cb)) := by
  cases h with
  | answer => exact .inl rfl
  | @command cmd data i _ turn decoded effect =>
    have issues : Issues s i := ⟨cmd, data, turn, decoded⟩
    obtain same | ⟨by_command, chan⟩ | ⟨run, ch, cb, cmp, r, hc, rfl, chan⟩ := effect.chan_cases c
    · exact .inl same
    · refine .inr (.inl ⟨?_, chan⟩)
      obtain rfl | ⟨ch, hc, rfl⟩ := by_command
      · exact .inl issues
      · exact .inr ⟨ch, hc, issues⟩
    · exact .inr (.inr (.inr (.inr ⟨run, .inr ⟨ch, cb, cmp, r, hc, issues, chan⟩⟩)))
  | tick =>
    obtain same | ⟨run, n, chan⟩ := s.popTurn.chan_tick_cases c
    · exact .inl same
    · exact .inr (.inr (.inr (.inr ⟨run, .inl ⟨n, chan⟩⟩)))
  | pin => exact .inl rfl
  | @serve svc turn on =>
    obtain same | ⟨fires, fired, chan⟩ | ⟨matched, chan⟩ := State.serve_chan_cases (s := s.popTurn) on c
    · exact .inl same
    · exact .inr (.inr (.inl ⟨svc, turn, on, fires, State.fired_popTurn fired, fires.due, chan⟩))
    · exact .inr (.inr (.inr (.inl ⟨matched, chan⟩)))

/-- What an act makes of one port's pin table: GINIT, a registration by GSET, or the stamp of an accepted event. -/
theorem Act.pins_cases (h : Act s u) (p : Nat) :
    (u.port p).pins = (s.port p).pins ∨
    (Issues s .ginit ∧ u.ginitDone = true ∧ (u.port p).pins = Pin.table) ∨
    (s.ginitDone = true ∧ ∃ k cb deb, (u.port p).pins = ((s.port p).register k cb deb).pins) ∨
    (s.nextTurn = .engine (.port p) ∧ s.enabled (.port p) = true ∧
      ∃ i, s.Accepts p i ∧ (s.port p).pins[i].deb = true ∧
        (u.port p).pins = (s.port p).pins.set i.val { (s.port p).pins[i] with last := s.cnt }) := by
  cases h with
  | answer => exact .inl rfl
  | @command cmd data i _ turn decoded effect =>
    obtain same | ⟨rfl, done, pins⟩ | registered := effect.pins_cases p
    · exact .inl same
    · exact .inr (.inl ⟨⟨cmd, data, turn, decoded⟩, done, pins⟩)
    · exact .inr (.inr (.inl registered))
  | tick => exact .inl (congrArg Port.pins (s.popTurn.port_tick p))
  | @pin k v =>
    obtain same | ⟨-, moved⟩ := State.port_pin (s := s.popTurn) k v p
    · exact .inl (congrArg Port.pins same)
    · exact .inl (by rw [State.port_log, moved]; rfl)
  | @serve svc turn on =>
    obtain same | ⟨rfl, i, accepts, deb, pins⟩ := State.serve_pins_cases (s := s.popTurn) on p
    · exact .inl same
    · exact .inr (.inr (.inr ⟨turn, on, i, State.accepts_popTurn accepts, deb, pins⟩))

/-- ENG leaves a wait by CBDONE, and leaves idle by an enabled service. -/
theorem Act.eng (h : Act s u) :
    u.eng = s.eng ∨ (u.eng = .idle ∧ Issues s .cbdone) ∨
      ∃ svc, s.nextTurn = .engine svc ∧ s.enabled svc = true ∧ u = s.popTurn.serve svc := by
  cases h with
  | answer => exact .inl rfl
  | @command cmd data _ _ turn decoded effect =>
    obtain same | ⟨rfl, idle⟩ := effect.eng
    · exact .inl same
    · exact .inr (.inl ⟨idle, cmd, data, turn, decoded⟩)
  | tick => exact .inl (by rw [s.popTurn.tick_frame]; rfl)
  | pin => exact .inl rfl
  | @serve svc turn on => exact .inr (.inr ⟨svc, turn, on, rfl⟩)

/-- An act appends the event of its turn (00_scope.md R12). -/
theorem Act.trace (h : Act s u) :
    (∃ cmd data, s.nextTurn = .host cmd data ∧ u.trace = .cmd cmd data u.response :: s.trace) ∨
    (s.nextTurn = .tick ∧ u.trace = .tick :: s.trace) ∨
    (∃ p v, s.nextTurn = .pin p v ∧ u.trace = .pin p v :: s.trace) ∨
    (∃ svc, s.nextTurn = .engine svc ∧ s.enabled svc = true ∧ u = s.popTurn.serve svc) := by
  cases h with
  | @answer cmd data turn => exact .inl ⟨cmd, data, turn, rfl⟩
  | @command cmd data i u turn _ effect v =>
    obtain ⟨-, -, -, -, trace, -⟩ := effect.frame
    refine .inl ⟨cmd, data, turn, ?_⟩
    rw [State.log_trace, State.respond_trace, trace]
    rfl
  | tick turn => exact .inr (.inl ⟨turn, by rw [s.popTurn.tick_frame]; rfl⟩)
  | @pin p v turn => exact .inr (.inr (.inl ⟨p, v, turn, rfl⟩))
  | @serve svc turn on => exact .inr (.inr (.inr ⟨svc, turn, on, rfl⟩))

end

/-! ### Parameters, GIE, the clock and the sticky bits -/

section
variable {s t : State}

/-- A step keeps the parameters (00_scope.md R5). -/
theorem step_parameters (h : step s = .next t) :
    t.settings = s.settings ∧ t.portMin = s.portMin ∧ t.channels.length = s.channels.length ∧
      t.ports.length = s.ports.length := by
  obtain ⟨-, rfl⟩ | ⟨u, act, rfl⟩ := step_act h
  · exact ⟨rfl, rfl, rfl, rfl⟩
  · obtain ⟨settings, portMin, channels, ports⟩ := act.parameters
    exact ⟨settings, portMin, channels, (List.length_map _).trans ports⟩

end

/-- Settles O53: no act writes a parameter, and ENV's alone the external levels. -/
theorem parametersAndExternalLevelsStay : Obligations.ParametersAndExternalLevelsStay := by
  intro s t h
  obtain ⟨settings, portMin, channels, ports⟩ := step_parameters h
  refine ⟨settings, portMin, channels, ports, fun p moved => ?_⟩
  obtain ⟨-, rfl⟩ | ⟨u, act, rfl⟩ := step_act h
  · exact absurd rfl moved
  · rw [State.port_updateLatches_of Port.ext fun _ => rfl] at moved ⊢
    exact (act.ext p).resolve_left moved

/-- Settles O51: the one act that writes GIE is INTCTL's. -/
theorem gieIsWrittenByIntctlAlone : Obligations.GieIsWrittenByIntctlAlone := by
  intro s t h moved
  obtain ⟨-, rfl⟩ | ⟨u, act, rfl⟩ := step_act h
  · exact absurd rfl moved
  · exact act.gie.resolve_left moved

/-- Settles O50: of the acts that move the clock, TICK keeps the round. -/
theorem roundMovesByOverflowServiceAlone : Obligations.RoundMovesByOverflowServiceAlone := by
  intro s t h moved
  obtain ⟨-, rfl⟩ | ⟨u, act, rfl⟩ := step_act h
  · exact absurd rfl moved
  · obtain ⟨-, round, -⟩ | ⟨-, -, round⟩ | ⟨tinit, round, -⟩ | ⟨turn, on, -, -, round, -⟩ := act.clock
    · exact absurd round moved
    · exact absurd round moved
    · exact .inr ⟨tinit, round⟩
    · exact .inl ⟨turn, on, round⟩

/-- The overflow in flight counts one round, so moving it into ROUND moves no logical time (10_state.md R64). -/
theorem logicalTime_eq_of_round_add_one {s u : State} (hovf : s.ovf = true) (cnt : u.cnt = s.cnt)
    (round : u.round = s.round + 1) (ovf : u.ovf = false) : logicalTime u = logicalTime s := by
  have wrap : (s.round + 1).toNat = (s.round.toNat + 1) % 2 ^ 32 := BitVec.toNat_add _ _
  simp only [logicalTime, cnt, round, ovf, hovf, wrap, Bool.false_eq_true, if_true, if_false]
  omega

/-- TICK adds 1 to logical time modulo 2^48, unless it loses a wrap (10_state.md R64). -/
theorem logicalTime_tick {s : State} (run : s.run = true) (keeps : ¬(s.ovf = true ∧ s.cnt = 0xFFFF)) :
    logicalTime s.tick = (logicalTime s + 1) % 2 ^ 48 := by
  have wrap : (s.cnt + 1).toNat = (s.cnt.toNat + 1) % 2 ^ 16 := BitVec.toNat_add _ _
  have last : s.cnt = 0xFFFF ↔ s.cnt.toNat = 2 ^ 16 - 1 := by
    rw [← BitVec.toNat_inj]; rfl
  have small := s.cnt.isLt
  rw [State.tick_of_run run]
  simp only [logicalTime, wrap, add_one_beq_zero]
  rw [last] at keeps
  by_cases full : s.cnt.toNat = 2 ^ 16 - 1
  · have none : s.ovf = false := by simpa [full] using keeps
    simp only [none, full, decide_true, Bool.or_true, Bool.false_eq_true, if_true, if_false]
    omega
  · simp only [full, decide_false, Bool.or_false]
    omega

/-- Settles O49: TICK by itself; of the other acts TINIT moves the clock, and the overflow service moves it in place. -/
theorem logicalTimeMovesByTickAlone : Obligations.LogicalTimeMovesByTickAlone := by
  intro s t h
  refine ⟨fun turn run keeps => ?_, fun turn stopped => ?_, fun turn noTinit => ?_⟩
  · obtain rfl := Host.Outcome.next.inj ((step_of_tick turn).symm.trans h)
    exact logicalTime_tick (s := s.popTurn) run keeps
  · obtain rfl := Host.Outcome.next.inj ((step_of_tick turn).symm.trans h)
    rw [State.tickTurn, State.tick_of_stopped (s := s.popTurn) stopped]
    rfl
  · obtain ⟨-, rfl⟩ | ⟨u, act, rfl⟩ := step_act h
    · rfl
    · change logicalTime u = logicalTime s
      obtain ⟨cnt, round, ovf⟩ | ⟨tick, -⟩ | ⟨tinit, -⟩ | ⟨-, -, hovf, cnt, round, ovf⟩ := act.clock
      · rw [logicalTime, cnt, round, ovf, logicalTime]
      · exact absurd tick turn
      · exact absurd tinit noTinit
      · exact logicalTime_eq_of_round_add_one hovf cnt round ovf

/-- Settles O52: no act clears a sticky bit, and the latch update writes none. -/
theorem stickyBitsStaySet : Obligations.StickyBitsStaySet := by
  intro s t h
  obtain ⟨-, rfl⟩ | ⟨u, act, rfl⟩ := step_act h
  · exact ⟨id, id, id, id, id⟩
  · refine ⟨act.faultUninit, fun set => ?_, fun set => ?_, fun set => ?_, fun set => ?_⟩
    · obtain same | ⟨-, kept⟩ := act.faultOvfMissed
      · exact same.trans set
      · exact kept set
    · obtain ⟨same, -⟩ | ⟨-, -, kept⟩ := act.gpio_bits
      · exact same.trans set
      · exact kept set
    · obtain same | now := act.run
      · exact same.trans set
      · exact now
    · obtain ⟨-, same | now⟩ | ⟨-, now, -⟩ := act.gpio_bits
      · exact same.trans set
      · exact now
      · exact now

/-! ### Latches -/

/-- A matched channel is one of the list. -/
theorem State.matched_chan_iff {s : State} {c : Nat} :
    Matched (s.chan c) ↔ ∃ ch, s.channels[c]? = some ch ∧ Matched ch := by
  constructor
  · intro matched
    have hc : c < s.channels.length := State.lt_n_of_matched matched
    exact ⟨s.chan c, by rw [State.chan_eq hc, List.getElem?_eq_getElem hc], matched⟩
  · rintro ⟨ch, hch, matched⟩
    obtain ⟨-, rfl⟩ := State.chan_of_getElem? hch
    exact matched

/-- CPENDV's request: a matched channel of 1..N-1 (60_exceptions.md R234). -/
theorem any_tail_request_iff {l : List Channel} :
    l.tail.any Channel.request = true ↔ ∃ (c : Nat) (ch : Channel), 1 ≤ c ∧ l[c]? = some ch ∧ Matched ch := by
  rw [List.any_eq_true]
  constructor
  · rintro ⟨ch, mem, request⟩
    obtain ⟨k, hk⟩ := List.mem_iff_getElem?.mp mem
    rw [List.getElem?_tail] at hk
    exact ⟨k + 1, ch, Nat.le_add_left 1 k, hk, Channel.request_iff_matched.mp request⟩
  · rintro ⟨c, ch, hc, hch, matched⟩
    obtain ⟨k, rfl⟩ := Nat.exists_eq_add_of_le' hc
    rw [← List.getElem?_tail] at hch
    exact ⟨ch, List.mem_iff_getElem?.mpr ⟨k, hch⟩, Channel.request_iff_matched.mpr matched⟩

theorem Port.request_iff_flagged {q : Port} : q.request = true ↔ Flagged q := bne_iff_ne

/-- Settles O35: the latch update, latch by latch; and since it only sets latches, a latch that a step clears was cleared
by the act, which is the latch's service. -/
theorem latchUpdate : Obligations.LatchUpdate := by
  refine ⟨fun s => ⟨s.ports.map Port.latch, rfl, ?_, ?_, List.length_map _, fun k q q' hq hq' => ?_⟩, fun s t h => ?_⟩
  · rw [State.updateLatches_cpend0, Bool.or_eq_true, Channel.request_iff_matched, State.matched_chan_iff]
  · rw [State.updateLatches_cpendv, Bool.or_eq_true, any_tail_request_iff]
  · rw [List.getElem?_map, hq] at hq'
    obtain rfl := Option.some.inj hq'
    exact ⟨rfl, by rw [Port.latch_pend, Bool.or_eq_true, Port.request_iff_flagged]⟩
  · obtain ⟨-, rfl⟩ | ⟨u, act, rfl⟩ := step_act h
    · exact ⟨fun set clear => absurd (set.symm.trans clear) nofun, fun set clear => absurd (set.symm.trans clear) nofun,
        fun p set clear => absurd (set.symm.trans clear) nofun⟩
    · refine ⟨fun set clear => ?_, fun set clear => ?_, fun p set clear => ?_⟩
      · rw [State.updateLatches_cpend0, Bool.or_eq_false_iff] at clear
        exact act.latches.1.resolve_left fun same => absurd ((same.trans set).symm.trans clear.1) nofun
      · rw [State.updateLatches_cpendv, Bool.or_eq_false_iff] at clear
        exact act.latches.2.resolve_left fun same => absurd ((same.trans set).symm.trans clear.1) nofun
      · refine (act.pend p).resolve_left fun same => ?_
        rw [State.port_updateLatches] at clear
        split at clear
        · rw [Port.latch_pend, same, set] at clear
          cases clear
        · rw [same, set] at clear
          cases clear

/-! ### The ENGINE's wait and the trace -/

/-- Settles O55: while ENG is not idle no service is enabled, so an act is HOST's, TICK's or ENV's. -/
theorem servicesDoNotNest : Obligations.ServicesDoNotNest := by
  intro s t waits h
  have off (svc : Service) : s.enabled svc ≠ true := fun on => waits (State.enabled_idle on).1
  obtain ⟨-, rfl⟩ | ⟨u, act, rfl⟩ := step_act h
  · exact ⟨fun _ _ => rfl, fun _ _ mem => mem, .inl rfl⟩
  · refine ⟨fun svc turn => ?_, fun cb src mem => ?_, ?_⟩
    · have e := (step_of_engine turn).symm.trans h
      rw [State.engineTurn_of_not_enabled (s := s.popTurn) (Bool.not_eq_true _ ▸ off svc)] at e
      exact (Host.Outcome.next.inj e).symm
    · change _ ∈ u.trace at mem
      obtain ⟨cmd, data, -, trace⟩ | ⟨-, trace⟩ | ⟨p, v, -, trace⟩ | ⟨svc, -, on, -⟩ := act.trace
      · rw [trace] at mem; exact (List.mem_cons.mp mem).resolve_left nofun
      · rw [trace] at mem; exact (List.mem_cons.mp mem).resolve_left nofun
      · rw [trace] at mem; exact (List.mem_cons.mp mem).resolve_left nofun
      · exact absurd on (off svc)
    · obtain same | ended | ⟨svc, -, on, -⟩ := act.eng
      · exact .inl same
      · exact .inr ended
      · exact absurd on (off svc)

/-- Settles O60: the event of each kind of turn; a service appends a callback or nothing. -/
theorem traceGrowsByTheStepsEvent : Obligations.TraceGrowsByTheStepsEvent := by
  intro s t h
  obtain ⟨passes, rfl⟩ | ⟨u, act, rfl⟩ := step_act h
  · obtain ⟨svc, turn, -⟩ | ⟨p, v, turn, out⟩ := passes
    · exact ⟨fun _ _ e => (nomatch turn.symm.trans e), fun e => (nomatch turn.symm.trans e),
        fun _ _ e => (nomatch turn.symm.trans e), fun _ _ => .inl rfl⟩
    · refine ⟨fun _ _ e => (nomatch turn.symm.trans e), fun e => (nomatch turn.symm.trans e),
        fun _ _ e hs => ?_, fun _ e => (nomatch turn.symm.trans e)⟩
      cases turn.symm.trans e
      exact absurd (hs.symm.trans out) nofun
  · change (∀ cmd data, _ → u.trace = .cmd cmd data u.response :: s.trace) ∧ (_ → u.trace = .tick :: s.trace) ∧
      (∀ p v, _ → _ → u.trace = .pin p v :: s.trace) ∧
      ∀ svc, _ → u.trace = s.trace ∨ ∃ cb src, cb ≠ 0 ∧ u.trace = .callback cb src :: s.trace
    obtain ⟨cmd, data, turn, trace⟩ | ⟨turn, trace⟩ | ⟨p, v, turn, trace⟩ | ⟨svc, turn, on, rfl⟩ := act.trace
    · refine ⟨fun _ _ e => ?_, fun e => (nomatch turn.symm.trans e), fun _ _ e => (nomatch turn.symm.trans e),
        fun _ e => (nomatch turn.symm.trans e)⟩
      cases turn.symm.trans e
      exact trace
    · exact ⟨fun _ _ e => (nomatch turn.symm.trans e), fun _ => trace, fun _ _ e => (nomatch turn.symm.trans e),
        fun _ e => (nomatch turn.symm.trans e)⟩
    · refine ⟨fun _ _ e => (nomatch turn.symm.trans e), fun e => (nomatch turn.symm.trans e), fun _ _ e _ => ?_,
        fun _ e => (nomatch turn.symm.trans e)⟩
      cases turn.symm.trans e
      exact trace
    · refine ⟨fun _ _ e => (nomatch turn.symm.trans e), fun e => (nomatch turn.symm.trans e),
        fun _ _ e => (nomatch turn.symm.trans e), fun _ _ => ?_⟩
      obtain ⟨-, trace⟩ | ⟨c, -, -, some, -, trace⟩ | ⟨p, i, -, -, some, -, -, trace⟩ :=
        State.serve_callback_cases (s := s.popTurn) on
      · exact .inl trace
      · exact .inr ⟨_, _, some, trace⟩
      · exact .inr ⟨_, _, some, trace⟩

/-- A callback event at the head of the trace comes from an enabled service. -/
theorem serve_of_callback {s t : State} {cb : Byte} {src : Source} (h : step s = .next t)
    (emitted : t.trace = .callback cb src :: s.trace) :
    ∃ svc, s.nextTurn = .engine svc ∧ s.enabled svc = true ∧ t = (s.popTurn.serve svc).updateLatches := by
  obtain ⟨-, rfl⟩ | ⟨u, act, rfl⟩ := step_act h
  · exact absurd emitted.symm (List.cons_ne_self _ _)
  · change u.trace = _ at emitted
    obtain ⟨cmd, data, -, trace⟩ | ⟨-, trace⟩ | ⟨p, v, -, trace⟩ | ⟨svc, turn, on, rfl⟩ := act.trace
    · cases trace.symm.trans emitted
    · cases trace.symm.trans emitted
    · cases trace.symm.trans emitted
    · exact ⟨svc, turn, on, rfl⟩

/-- The slot that has fired is disarmed. -/
theorem State.Fired.chan {s t : State} {c : Nat} (h : s.Fired t c) (hc : c < s.n) : t.chan c = (s.chan c).disarm :=
  (congrArg (·.getD c Channel.reset) h.channels).trans ((State.chan_setChan c _ hc).trans (if_pos rfl))

/-- Settles O56: of the services, a timer service that fires a slot with a callback emits a timer callback. -/
theorem timerCallbackOnlyFromDueSlot : Obligations.TimerCallbackOnlyFromDueSlot := by
  intro s t c cb h emitted
  obtain ⟨svc, turn, on, rfl⟩ := serve_of_callback h emitted
  change (s.popTurn.serve svc).trace = _ at emitted
  obtain ⟨-, trace⟩ | ⟨d, fires, fired, some, eng, trace⟩ | ⟨p, i, -, -, -, -, -, trace⟩ :=
    State.serve_callback_cases (s := s.popTurn) on
  · exact absurd (emitted.symm.trans trace) (List.cons_ne_self _ _)
  · cases trace.symm.trans emitted
    have hc : c < s.n := State.lt_n_of_armed fires.armed
    have chan : (s.popTurn.serve svc).updateLatches.chan c = (s.chan c).disarm := fired.chan hc
    refine ⟨⟨svc, turn, on, ?_⟩, hc, fires.armed, rfl, some, by rw [chan]; rfl, by rw [chan]; rfl, by rw [chan]; rfl,
      by rw [chan]; rfl, eng⟩
    cases svc with
    | overflow => obtain ⟨rfl, -, round, ccr⟩ := fires; exact .inl ⟨rfl, rfl, round, ccr⟩
    | cmp0 => obtain ⟨rfl, -, matched, due⟩ := fires; exact .inr (.inl ⟨rfl, rfl, matched, due⟩)
    | cmpv => obtain ⟨hc, -, matched, due⟩ := fires; exact .inr (.inr ⟨rfl, hc, matched, due⟩)
    | port p => exact fires.elim
  · cases trace.symm.trans emitted

/-- Settles O57: of the services, a port dispatch that accepts an event of a pin with a callback emits a GPIO callback. -/
theorem gpioCallbackOnlyFromEnabledFlaggedPin : Obligations.GpioCallbackOnlyFromEnabledFlaggedPin := by
  intro s t p i cb h emitted
  obtain ⟨svc, turn, on, rfl⟩ := serve_of_callback h emitted
  change (s.popTurn.serve svc).trace = _ at emitted
  obtain ⟨-, trace⟩ | ⟨d, -, -, -, -, trace⟩ | ⟨k, j, rfl, accepts, some, port, eng, trace⟩ :=
    State.serve_callback_cases (s := s.popTurn) on
  · exact absurd (emitted.symm.trans trace) (List.cons_ne_self _ _)
  · cases trace.symm.trans emitted
  · cases trace.symm.trans emitted
    have port : (s.popTurn.serve (.port p)).port p = (s.port p).accept i s.cnt := port
    have kept {α : Type} (g : Port → α) (hg : ∀ q, g q.latch = g q) :
        g ((s.popTurn.serve (.port p)).updateLatches.port p) = g ((s.port p).accept i s.cnt) := by
      rw [State.port_updateLatches_of g hg, port]
    have pins := kept Port.pins fun _ => rfl
    rw [Port.accept_pins] at pins
    refine ⟨turn, on, accepts.lowest, accepts.enabled, rfl, some, fun deb => ⟨accepts.settled deb, ?_⟩, fun noDeb => ?_,
      (kept Port.ie fun _ => rfl).trans (by rw [Port.accept_eq]), (kept Port.savedIe fun _ => rfl).trans (by rw [Port.accept_eq]), eng⟩
    · rw [pins, if_pos deb]
      simp
    · rw [pins, noDeb, if_neg Bool.false_ne_true]

/-! ### Slots and times of last fire -/

/-- Settles O58: of what an act makes of a slot, TSET arms it, and TUNSET, TINIT or a firing disarms it. -/
theorem slotStateMachine : Obligations.SlotStateMachine := by
  intro s t c h
  obtain ⟨-, rfl⟩ | ⟨u, act, rfl⟩ := step_act h
  · exact ⟨fun off on => absurd (off.symm.trans on) nofun, fun on off => absurd (off.symm.trans on) nofun⟩
  · rw [State.chan_updateLatches, State.updateLatches_round, State.updateLatches_trace]
    have still {b : Bool} {X Y : Prop} (same : b = (s.chan c).armed) :
        ((s.chan c).armed = false → b = true → X) ∧ ((s.chan c).armed = true → b = false → Y) :=
      ⟨fun off on => absurd ((same.trans off).symm.trans on) nofun,
        fun on off => absurd ((same.trans on).symm.trans off) nofun⟩
    obtain chan | ⟨command, chan⟩ | ⟨svc, turn, on, fires, fired, due, chan⟩ | ⟨-, chan⟩ |
      ⟨-, ⟨n, chan⟩ | ⟨ch, cb, cmp, r, hc, issues, chan⟩⟩ := act.chan_cases c
    · exact still (by rw [chan])
    · rw [chan]
      exact ⟨fun _ on => (nomatch on), fun _ _ => command.imp id .inl⟩
    · rw [chan]
      refine ⟨fun _ on => (nomatch on), fun _ _ => .inr (.inr ⟨svc, turn, on, ?_, due, fun some => ?_⟩)⟩
      · cases svc with
        | overflow => exact .inl ⟨rfl, fires.1⟩
        | cmp0 => exact .inr (.inl ⟨rfl, fires.1⟩)
        | cmpv => exact .inr (.inr ⟨rfl, fires.1⟩)
        | port p => exact fires.elim
      · obtain ⟨none, -⟩ | ⟨-, -, trace⟩ := fired.callback
        · exact absurd none some
        · exact trace
    · exact still (by rw [chan]; rfl)
    · exact still (by rw [chan]; rfl)
    · rw [chan]
      exact ⟨fun _ _ => ⟨ch, cb, cmp, r, hc, issues⟩, fun _ off => (nomatch off)⟩

/-- Settles O59: of what an act makes of a pin table, a registration keeps every LAST, GINIT clears it and the stamp of an
accepted event writes the counter. -/
theorem lastFireTimeIsStampedByAcceptedEvents : Obligations.LastFireTimeIsStampedByAcceptedEvents := by
  intro s t p i h moved
  obtain ⟨-, rfl⟩ | ⟨u, act, rfl⟩ := step_act h
  · exact absurd rfl moved
  · have kept := State.port_updateLatches_of (s := u) Port.pins (fun _ => rfl) p
    rw [kept] at moved ⊢
    obtain pins | ⟨issues, -, pins⟩ | ⟨-, k, cb, deb, pins⟩ | ⟨turn, on, k, accepts, deb, pins⟩ := act.pins_cases p
    · rw [pins] at moved
      exact absurd rfl moved
    · rw [pins]
      exact .inl ⟨issues, by rw [Pin.getElem_table]⟩
    · rw [pins, Port.getElem_register_pins] at moved
      split at moved
      · exact absurd rfl moved
      · exact absurd rfl moved
    · by_cases e : i = k
      · subst e
        refine .inr ⟨turn, on, deb, accepts.lowest, accepts.enabled, accepts.settled deb, ?_⟩
        rw [pins]
        simp
      · have other : k.val ≠ i.val := fun same => e (Fin.ext same.symm)
        rw [pins] at moved
        simp [other] at moved

end Sys2Proof.Machine
end

section
/-! The invariant of the machine (Safety.lean): it holds right after reset, each of its parts is kept by every act of a
step, and the latch update latches every request; so it holds of every state that a run reaches. -/

namespace Sys2Proof.Machine
open Sys2Proof.Claims

/-! ### What the invariant reads -/

theorem State.mem_channels {s : State} {ch : Channel} (h : ch ∈ s.channels) : ∃ c, c < s.n ∧ s.chan c = ch := by
  obtain ⟨c, hc, rfl⟩ := List.getElem_of_mem h
  exact ⟨c, hc, State.chan_eq hc⟩

theorem State.Shape.congr {s t : State} (h : s.Shape) (channels : t.channels.length = s.channels.length)
    (portMin : t.portMin = s.portMin) (ports : t.ports.length = s.ports.length) : t.Shape :=
  ⟨by rw [channels]; exact h.n_pos, by rw [channels]; exact h.n_le, by rw [portMin]; exact h.portMin_pos,
    by rw [ports]; exact h.ports_pos, by rw [portMin, ports]; exact h.portMax_le⟩

/-- The invariant reads neither the turns placed from outside nor their count. -/
theorem State.Inv.turns {s : State} (h : s.Inv) (agenda : List Turn) (turns : Nat) :
    ({ s with agenda := agenda, turns := turns } : State).Inv where
  shape := h.shape.congr rfl rfl rfl
  slots := h.slots
  eng := h.eng
  beforeTinit stopped :=
    have before := h.beforeTinit stopped
    ⟨before.cnt, before.round, before.ovf, before.missed, before.channels⟩
  beforeGinit undone :=
    have before := h.beforeGinit undone
    ⟨before.multibit, before.pins⟩
  latched := ⟨h.latched.cpend0, h.latched.cpendv, h.latched.pend⟩

/-- The invariant of ENG where it waits for a port's callback (10_state.md R58, 41_gpio.md R172). -/
theorem State.engInv_of_waitGpio {s : State} {p : Nat} {i : Fin 8} {cb : Byte} (h : s.eng = .waitGpio p i cb) :
    s.EngInv ↔ s.supported p = true ∧ cb ≠ 0 ∧ (s.port p).ie = 0 := by rw [State.EngInv, h]

theorem State.engInv_of_waitTimer {s : State} {c : Nat} {cb : Byte} (h : s.eng = .waitTimer c cb) :
    s.EngInv ↔ c < s.channels.length ∧ cb ≠ 0 := by rw [State.EngInv, h]

theorem State.engInv_of_idle {s : State} (h : s.eng = .idle) : s.EngInv := by rw [State.EngInv, h]; trivial

/-! ### Slots -/

theorem Channel.Inv.disarm (ch : Channel) : ch.disarm.Inv := ⟨rfl, fun _ => rfl⟩

theorem Channel.Inv.clearFlag {ch : Channel} (h : ch.Inv) : ch.clearFlag.Inv := ⟨h.enabled_iff_armed, h.unarmed_callback⟩

theorem Channel.Inv.compare {ch : Channel} (h : ch.Inv) (n : Half) : (ch.compare n).Inv :=
  ⟨h.enabled_iff_armed, h.unarmed_callback⟩

theorem Channel.Inv.arm (ch : Channel) (cmp : Half) (r : Word) (cb : Byte) : (ch.arm cmp r cb).Inv := ⟨rfl, nofun⟩

theorem Channel.Inv.reset : Channel.reset.Inv := ⟨rfl, fun _ => rfl⟩

section
variable {s u : State} (act : Act s u) (inv : s.Inv)
include act inv

/-- CCIE = armed, and no callback in an unarmed slot (60_exceptions.md R240, 40_timer.md R130). -/
theorem Act.keeps_slots : ∀ ch ∈ u.channels, ch.Inv := by
  intro ch mem
  obtain ⟨c, hc, rfl⟩ := State.mem_channels mem
  obtain ⟨-, -, channels, -⟩ := act.parameters
  have slot : (s.chan c).Inv := inv.slots _ (State.chan_mem (channels ▸ hc : c < s.channels.length))
  obtain chan | ⟨-, chan⟩ | ⟨svc, -, -, -, -, -, chan⟩ | ⟨-, chan⟩ | ⟨-, ⟨n, chan⟩ | ⟨_, cb, cmp, r, -, -, chan⟩⟩ :=
    act.chan_cases c
  · rw [chan]; exact slot
  · rw [chan]; exact .disarm _
  · rw [chan]; exact .disarm _
  · rw [chan]; exact slot.clearFlag
  · rw [chan]; exact slot.compare n
  · rw [chan]; exact .arm _ cmp r cb

omit inv in
/-- While a callback of port `p` is outstanding, an act that does not end it keeps the live IE[p] (41_gpio.md R172). -/
theorem Act.ie_of_serving {p : Nat} (serving : s.serving p = true) (waits : u.eng = s.eng) :
    (u.port p).ie = (s.port p).ie := by
  cases act with
  | answer => rfl
  | command _ _ effect => exact effect.ie_of_serving serving waits
  | tick => exact congrArg Port.ie (s.popTurn.port_tick p)
  | @pin k v =>
    obtain same | ⟨-, moved⟩ := State.port_pin (s := s.popTurn) k v p
    · exact congrArg Port.ie same
    · rw [State.port_log, moved]; rfl
  | serve _ on =>
    rw [State.serving, (State.enabled_idle on).1] at serving
    cases serving

/-- ENG names a channel or a port that exists and a callback, and masks its port (10_state.md R58, 41_gpio.md R172). -/
theorem Act.keeps_engInv : u.EngInv := by
  obtain ⟨-, -, channels, -⟩ := act.parameters
  obtain same | ⟨idle, -⟩ | ⟨svc, turn, on, rfl⟩ := act.eng
  · cases eng : s.eng with
    | idle => exact State.engInv_of_idle (same.trans eng)
    | waitTimer c cb =>
      obtain ⟨hc, some⟩ := (State.engInv_of_waitTimer eng).mp inv.eng
      exact (State.engInv_of_waitTimer (same.trans eng)).mpr ⟨by rw [channels]; exact hc, some⟩
    | waitGpio p i cb =>
      obtain ⟨hs, some, masked⟩ := (State.engInv_of_waitGpio eng).mp inv.eng
      refine (State.engInv_of_waitGpio (same.trans eng)).mpr ⟨(act.supported p).trans hs, some, ?_⟩
      rw [act.ie_of_serving (State.serving_of_waitGpio eng) same, masked]
  · exact State.engInv_of_idle idle
  · obtain ⟨eng, -⟩ | ⟨c, fires, -, some, eng, -⟩ | ⟨p, i, rfl, -, some, port, eng, -⟩ :=
      State.serve_callback_cases (s := s.popTurn) on
    · exact State.engInv_of_idle eng
    · have hc : c < s.channels.length := State.lt_n_of_armed fires.armed
      exact (State.engInv_of_waitTimer eng).mpr ⟨by rw [channels]; exact hc, some⟩
    · refine (State.engInv_of_waitGpio eng).mpr ⟨(act.supported p).trans (State.enabled_supported on), some, ?_⟩
      rw [port, Port.accept_eq]

/-- Before TINIT the timer unit holds its reset values (70_reset_and_hazards.md R303). -/
theorem Act.keeps_beforeTinit (stopped : u.run = false) : u.BeforeTinit := by
  have before : s.run = false := by
    obtain same | now := act.run
    · exact same.symm.trans stopped
    · exact absurd (now.symm.trans stopped) nofun
  have notRun : ¬s.run = true := by rw [before]; exact Bool.false_ne_true
  have values := inv.beforeTinit before
  obtain ⟨cnt, round, ovf⟩ : u.cnt = s.cnt ∧ u.round = s.round ∧ u.ovf = s.ovf := by
    obtain same | ⟨-, run, -⟩ | ⟨-, -, run⟩ | ⟨-, -, ovf, -⟩ := act.clock
    · exact same
    · exact absurd run notRun
    · exact absurd (run.symm.trans stopped) nofun
    · exact absurd (ovf.symm.trans values.ovf) nofun
  have missed : u.faultOvfMissed = s.faultOvfMissed := act.faultOvfMissed.resolve_right fun h => notRun h.1
  refine ⟨cnt.trans values.cnt, round.trans values.round, ovf.trans values.ovf, missed.trans values.missed,
    fun ch mem => ?_⟩
  obtain ⟨c, hc, rfl⟩ := State.mem_channels mem
  obtain ⟨-, -, channels, -⟩ := act.parameters
  have slot : s.chan c = Channel.reset := values.channels _ (State.chan_mem (channels ▸ hc : c < s.channels.length))
  obtain chan | ⟨-, chan⟩ | ⟨svc, -, -, -, -, -, chan⟩ | ⟨matched, -⟩ | ⟨run, -⟩ := act.chan_cases c
  · rw [chan, slot]
  · rw [chan, slot]; rfl
  · rw [chan, slot]; rfl
  · rw [slot] at matched
    exact absurd matched.1 Bool.false_ne_true
  · exact absurd run notRun

/-- Before GINIT the pin table holds its reset values (70_reset_and_hazards.md R303). -/
theorem Act.keeps_beforeGinit (undone : u.ginitDone = false) :
    u.flagMultibit = false ∧ ∀ p, s.supported p = true → (u.port p).pins = Pin.table := by
  have notDone : ¬u.ginitDone = true := by rw [undone]; exact Bool.false_ne_true
  obtain ⟨multibit, same⟩ : u.flagMultibit = s.flagMultibit ∧ u.ginitDone = s.ginitDone := by
    obtain ⟨multibit, same | now⟩ | ⟨-, now, -⟩ := act.gpio_bits
    · exact ⟨multibit, same⟩
    · exact absurd now notDone
    · exact absurd now notDone
  have before : s.ginitDone = false := same.symm.trans undone
  have values := inv.beforeGinit before
  refine ⟨multibit.trans values.multibit, fun p hs => ?_⟩
  have table : (s.port p).pins = Pin.table := values.pins _ (State.port_mem hs)
  obtain pins | ⟨-, now, -⟩ | ⟨done, -⟩ | ⟨-, -, i, -, deb, -⟩ := act.pins_cases p
  · exact pins.trans table
  · exact absurd now notDone
  · exact absurd (done.symm.trans before) nofun
  · rw [table, Pin.getElem_table] at deb
    exact absurd deb Bool.false_ne_true

end

/-! ### The latch update -/

/-- After the latch update every request is latched (60_exceptions.md R234). -/
theorem State.latched_updateLatches (u : State) : u.updateLatches.Latched where
  cpend0 request := by
    rw [State.chan_updateLatches] at request
    rw [State.updateLatches_cpend0, request, Bool.or_true]
  cpendv request := by
    rw [State.updateLatches_channels] at request
    rw [State.updateLatches_cpendv, request, Bool.or_true]
  pend q mem request := by
    obtain ⟨before, -, rfl⟩ := List.mem_map.mp mem
    have request : before.request = true := request
    rw [Port.latch_pend, request, Bool.or_true]

/-- The latch update keeps what the invariant says of ENG: it reads and writes no IE. -/
theorem State.engInv_updateLatches {u : State} (h : u.EngInv) : u.updateLatches.EngInv := by
  cases eng : u.eng with
  | idle => exact State.engInv_of_idle eng
  | waitTimer c cb => exact (State.engInv_of_waitTimer (s := u.updateLatches) eng).mpr ((State.engInv_of_waitTimer eng).mp h)
  | waitGpio p i cb =>
    obtain ⟨hs, some, masked⟩ := (State.engInv_of_waitGpio eng).mp h
    refine (State.engInv_of_waitGpio (s := u.updateLatches) eng).mpr ⟨by rwa [State.supported_updateLatches], some, ?_⟩
    rw [State.port_updateLatches_of Port.ie fun _ => rfl, masked]

/-- An act and the latch update keep the invariant. -/
theorem Act.keeps_inv {s u : State} (act : Act s u) (inv : s.Inv) : u.updateLatches.Inv where
  shape := by
    obtain ⟨-, portMin, channels, ports⟩ := act.parameters
    exact inv.shape.congr channels portMin ((List.length_map _).trans ports)
  slots := act.keeps_slots inv
  eng := State.engInv_updateLatches (act.keeps_engInv inv)
  beforeTinit stopped :=
    have values := act.keeps_beforeTinit inv stopped
    ⟨values.cnt, values.round, values.ovf, values.missed, values.channels⟩
  beforeGinit undone := by
    obtain ⟨multibit, pins⟩ := act.keeps_beforeGinit inv undone
    refine ⟨multibit, fun q mem => ?_⟩
    obtain ⟨p, hs, rfl⟩ := State.mem_ports mem
    rw [State.supported_updateLatches, act.supported] at hs
    rw [State.port_updateLatches_of Port.pins fun _ => rfl]
    exact pins p hs
  latched := u.latched_updateLatches

/-- Settles O46: a turn that passes changes nothing the invariant reads, and an act keeps each of its parts. -/
theorem stepKeepsInvariant : Obligations.StepKeepsInvariant := by
  intro s t inv h
  obtain ⟨-, rfl⟩ | ⟨u, act, rfl⟩ := step_act h
  · exact inv.turns _ _
  · exact act.keeps_inv inv

/-! ### Reset and runs -/

theorem Port.request_reset (ext : Byte) : (Port.reset ext).request = false := by
  rw [← Bool.not_eq_true, Port.request_iff_flagged]
  exact fun flagged => flagged (BitVec.and_self (x := 0))

/-- Settles O45: the parameters' constraints are `Params.valid`, and every channel and port is the reset one, which has no
request. -/
theorem invariantAtReset : Obligations.InvariantAtReset := by
  intro prm ext valid
  simp only [Params.valid, Bool.and_eq_true, decide_eq_true_eq, and_assoc] at valid
  obtain ⟨n_pos, n_le, portMin_pos, portMin_le, portMax_le⟩ := valid
  have channels : (State.resetWith prm ext).channels.length = prm.n := List.length_replicate
  have ports : (State.resetWith prm ext).ports.length = prm.portMax + 1 - prm.portMin := State.length_ports_resetWith
  have portMin : (State.resetWith prm ext).portMin = prm.portMin := rfl
  have port (q : Port) (mem : q ∈ (State.resetWith prm ext).ports) : ∃ e, q = Port.reset e := by
    obtain ⟨p, hs, rfl⟩ := State.mem_ports mem
    exact ⟨_, State.port_resetWith hs⟩
  refine ⟨⟨by omega, by omega, by omega, by omega, by omega⟩, fun ch mem => ?_, State.engInv_of_idle rfl,
    fun _ => ⟨rfl, rfl, rfl, rfl, fun ch mem => State.channel_eq_reset_of_mem_resetWith mem⟩,
    fun _ => ⟨rfl, fun q mem => ?_⟩, fun request => ?_, fun request => ?_, fun q mem request => ?_⟩
  · rw [State.channel_eq_reset_of_mem_resetWith mem]
    exact .reset
  · obtain ⟨e, rfl⟩ := port q mem
    rfl
  · have hc : 0 < (State.resetWith prm ext).n := by rw [State.n, channels]; omega
    rw [State.channel_eq_reset_of_mem_resetWith (State.chan_mem hc)] at request
    cases request
  · obtain ⟨ch, mem, request⟩ := List.any_eq_true.mp request
    rw [State.channel_eq_reset_of_mem_resetWith (List.mem_of_mem_tail mem)] at request
    cases request
  · obtain ⟨e, rfl⟩ := port q mem
    rw [Port.request_reset] at request
    cases request

/-- Settles O47: by induction on the run; placing turns from outside changes nothing the invariant reads. -/
theorem reachableStatesMeetInvariant : Obligations.ReachableStatesMeetInvariant := by
  intro prm ext s valid reachable
  induction reachable with
  | reset => exact invariantAtReset prm ext valid
  | @placed s agenda _ inv => exact inv.turns agenda s.turns
  | stepped _ h inv => exact stepKeepsInvariant _ _ inv h

end Sys2Proof.Machine
end

section
/-! BUS_BYTE_ORDER and PLATFORM_BASE (20_memory.md R82, R88): no rule reads them, so every operation on a machine with other
values of them does what it does on the machine itself. -/

namespace Sys2Proof.Machine
open Sys2Proof.Claims

/-- The machine with other values of BUS_BYTE_ORDER and PLATFORM_BASE. -/
def State.onPlatform (order : ByteOrder) (base : Option Nat) (s : State) : State :=
  { s with settings := { s.settings with busByteOrder := order, platformBase := base } }

/-- An outcome with its next state changed by `f`. -/
def mapNext (f : State → State) : Host.Outcome State Fault Refusal → Host.Outcome State Fault Refusal
  | .next s => .next (f s)
  | .fault r => .fault r
  | .refused r => .refused r

/-- A choice between two outcomes, by a condition that `f` leaves alone. -/
theorem ite_eq_mapNext_ite {f : State → State} {c : Prop} [Decidable c] {a b a' b' : Host.Outcome State Fault Refusal}
    (ha : a' = mapNext f a) (hb : b' = mapNext f b) : (if c then a' else b') = mapNext f (if c then a else b) := by
  rw [ha, hb, apply_ite (mapNext f)]

/-- A choice between two states, by a condition that the platform leaves alone. -/
theorem ite_eq_onPlatform_ite {order : ByteOrder} {base : Option Nat} {c : Prop} [Decidable c] {a b a' b' : State}
    (ha : a' = a.onPlatform order base) (hb : b' = b.onPlatform order base) :
    (if c then a' else b') = (if c then a else b).onPlatform order base := by
  rw [ha, hb, apply_ite (State.onPlatform order base)]

section
variable (order : ByteOrder) (base : Option Nat) (s : State)

/-! ### Commands -/

theorem State.portVectorRead_onPlatform (p : Nat) :
    (s.onPlatform order base).portVectorRead p =
      ((s.portVectorRead p).1, (s.portVectorRead p).2.onPlatform order base) := by
  change (match lowestPin (s.port p).ifg with
    | none => _
    | some i => _) = _
  unfold State.portVectorRead
  cases lowestPin (s.port p).ifg with
  | none => rfl
  | some i => rfl

theorem State.writePortReg_onPlatform (p : Nat) (v : Byte) (reg : PortReg) :
    (s.onPlatform order base).writePortReg p v reg = (s.writePortReg p v reg).onPlatform order base := by
  cases reg with
  | _ => rfl

/-- A command does the same on every platform. -/
theorem exec_onPlatform (i : Instr) :
    exec i (s.onPlatform order base) = mapNext (State.onPlatform order base) (exec i s) := by
  cases i with
  | nop => rfl
  | tinit => rfl
  | tnow => rfl
  | tnowx => rfl
  | ginit => rfl
  | intctl e => rfl
  | tset ch cb cmp r => exact ite_eq_mapNext_ite rfl (ite_eq_mapNext_ite rfl rfl)
  | tunset ch => exact ite_eq_mapNext_ite rfl rfl
  | tquery ch => exact ite_eq_mapNext_ite rfl rfl
  | gset port mask flags cb =>
    exact ite_eq_mapNext_ite rfl (ite_eq_mapNext_ite rfl (ite_eq_mapNext_ite rfl
      (ite_eq_mapNext_ite rfl (ite_eq_mapNext_ite rfl rfl))))
  | gquery port pin =>
    refine ite_eq_mapNext_ite rfl ?_
    cases pinOfField pin with
    | none => rfl
    | some i => rfl
  | prd port reg =>
    refine ite_eq_mapNext_ite rfl ?_
    cases reg with
    | iv => rw [State.readPortReg, State.portVectorRead_onPlatform]; rfl
    | _ => rfl
  | pwr port reg v =>
    refine ite_eq_mapNext_ite rfl (ite_eq_mapNext_ite rfl ?_)
    rw [State.writePortReg_onPlatform]
    rfl
  | cbdone =>
    rw [exec, exec, execCbdone, execCbdone, show (s.onPlatform order base).eng = s.eng from rfl]
    cases s.eng with
    | _ => rfl
  | diag port sel =>
    refine ite_eq_mapNext_ite rfl ?_
    cases sel with
    | bounce => exact ite_eq_mapNext_ite rfl rfl
    | spur => exact ite_eq_mapNext_ite rfl rfl
    | _ => rfl

/-! ### TICK and the services -/

theorem State.tick_onPlatform : (s.onPlatform order base).tick = s.tick.onPlatform order base :=
  ite_eq_onPlatform_ite rfl rfl

theorem State.expiryCheck_onPlatform (c : Nat) :
    (s.onPlatform order base).expiryCheck c = (s.expiryCheck c).onPlatform order base :=
  ite_eq_onPlatform_ite rfl (ite_eq_onPlatform_ite (ite_eq_onPlatform_ite rfl rfl) rfl)

theorem State.timerVectorRead_onPlatform :
    (s.onPlatform order base).timerVectorRead = (s.timerVectorRead.1, s.timerVectorRead.2.onPlatform order base) := by
  change (match (List.range s.n).find? (fun c => decide (1 ≤ c) && (s.chan c).request) with
    | none => _
    | some c => _) = _
  unfold State.timerVectorRead
  cases (List.range s.n).find? (fun c => decide (1 ≤ c) && (s.chan c).request) with
  | none => rfl
  | some c => rfl

theorem State.overflowService_onPlatform :
    (s.onPlatform order base).overflowService = s.overflowService.onPlatform order base :=
  ite_eq_onPlatform_ite (s.nextRound.expiryCheck_onPlatform order base 0) rfl

theorem State.cmp0Service_onPlatform :
    (s.onPlatform order base).cmp0Service = s.cmp0Service.onPlatform order base :=
  ite_eq_onPlatform_ite
    (({ s with cpend0 := false }.modChan 0 Channel.clearFlag).expiryCheck_onPlatform order base 0) rfl

theorem State.cmpvService_onPlatform :
    (s.onPlatform order base).cmpvService = s.cmpvService.onPlatform order base := by
  have read := State.timerVectorRead_onPlatform order base { s with cpendv := false }
  unfold State.cmpvService
  dsimp only
  rw [show ({ s.onPlatform order base with cpendv := false } : State) =
    State.onPlatform order base { s with cpendv := false } from rfl, read]
  exact ite_eq_onPlatform_ite rfl (State.expiryCheck_onPlatform order base _ _)

theorem State.gpioInvoke_onPlatform (p : Nat) (i : Fin 8) :
    (s.onPlatform order base).gpioInvoke p i = (s.gpioInvoke p i).onPlatform order base :=
  ite_eq_onPlatform_ite rfl rfl

theorem State.dispatchPin_onPlatform (p : Nat) (i : Fin 8) :
    (s.onPlatform order base).dispatchPin p i = (s.dispatchPin p i).onPlatform order base :=
  ite_eq_onPlatform_ite rfl (ite_eq_onPlatform_ite ((s.modPort p (Port.clearFlag i)).gpioInvoke_onPlatform order base p i)
    (ite_eq_onPlatform_ite
      (((s.modPort p (Port.clearFlag i)).modPort p (Port.stamp i s.cnt)).gpioInvoke_onPlatform order base p i) rfl))

theorem State.portService_onPlatform (p : Nat) :
    (s.onPlatform order base).portService p = (s.portService p).onPlatform order base := by
  rw [State.portService_eq, State.portService_eq]
  change (match lowestPin ((s.dispatchEnter p).port p).ifg with
    | none => _
    | some i => _) = _
  cases lowestPin ((s.dispatchEnter p).port p).ifg with
  | none => rfl
  | some i => exact ((s.dispatchEnter p).modPort p (Port.clearFlag i)).dispatchPin_onPlatform order base p i

/-- A service does the same on every platform. -/
theorem State.serve_onPlatform (svc : Service) :
    (s.onPlatform order base).serve svc = (s.serve svc).onPlatform order base := by
  cases svc with
  | overflow => exact s.overflowService_onPlatform order base
  | cmp0 => exact s.cmp0Service_onPlatform order base
  | cmpv => exact s.cmpvService_onPlatform order base
  | port p => exact s.portService_onPlatform order base p

/-! ### Turns -/

theorem State.tickTurn_onPlatform : (s.onPlatform order base).tickTurn = s.tickTurn.onPlatform order base := by
  rw [State.tickTurn, State.tick_onPlatform]
  rfl

theorem State.pinTurn_onPlatform (p : Nat) (v : Byte) :
    (s.onPlatform order base).pinTurn p v = (s.pinTurn p v).onPlatform order base :=
  ite_eq_onPlatform_ite rfl rfl

theorem State.engineTurn_onPlatform (svc : Service) :
    (s.onPlatform order base).engineTurn svc = (s.engineTurn svc).onPlatform order base := by
  refine ite_eq_onPlatform_ite ?_ rfl
  rw [State.serve_onPlatform]
  rfl

theorem runCommand_onPlatform (cmd data : Word) :
    runCommand cmd data (s.onPlatform order base) = mapNext (State.onPlatform order base) (runCommand cmd data s) := by
  cases h : decode cmd data with
  | error e => rw [runCommand_of_error h, runCommand_of_error h]; rfl
  | ok i => rw [runCommand_of_ok h, runCommand_of_ok h, exec_onPlatform]

/-- A step does the same on every platform. -/
theorem step_onPlatform : step (s.onPlatform order base) = mapNext (State.onPlatform order base) (step s) := by
  cases turn : s.nextTurn with
  | host cmd data =>
    rw [step_of_host turn, step_of_host (s := s.onPlatform order base) turn]
    change afterCommand cmd data (runCommand cmd data (s.popTurn.onPlatform order base)) = _
    rw [runCommand_onPlatform]
    cases runCommand cmd data s.popTurn with
    | _ => rfl
  | tick =>
    rw [step_of_tick turn, step_of_tick (s := s.onPlatform order base) turn]
    exact congrArg _ (s.popTurn.tickTurn_onPlatform order base)
  | pin p v =>
    rw [step_of_pin turn, step_of_pin (s := s.onPlatform order base) turn]
    exact congrArg _ (s.popTurn.pinTurn_onPlatform order base p v)
  | engine svc =>
    rw [step_of_engine turn, step_of_engine (s := s.onPlatform order base) turn]
    exact congrArg _ (s.popTurn.engineTurn_onPlatform order base svc)

end

/-- Settles O54: a step commutes with the change of platform, since every operation of it does. -/
theorem platformParametersDoNotMatter : Obligations.PlatformParametersDoNotMatter := by
  intro s t order base h
  exact (step_onPlatform order base s).trans (congrArg (mapNext (State.onPlatform order base)) h)

end Sys2Proof.Machine
end
